-- ==== Sys2Proof/Word.lean ====
section
/-! DEFINITION. The word types of the core (spec/10_state.md R20, R24, R25; spec/30_encoding.md R71). -/

namespace Sys2Proof

/-- Eight bits: a general register, a memory byte, an immediate KK (R20, R29, R71). -/
abbrev Byte := BitVec 8

/-- Sixteen bits: an opcode, I, pc, a stack slot (R24, R25, R26, R70). -/
abbrev Word := BitVec 16

/-- Four bits: a register number X or Y, a row count N, a top nibble, a key code (R71, R44). -/
abbrev Nibble := BitVec 4

/-- Twelve bits: the address field NNN (R71). -/
abbrev Addr := BitVec 12

end Sys2Proof
end

