-- ==== Sys2Proof/Config.lean ====
section
/-! DEFINITION. The parameters of the core (spec/00_scope.md R6) and the free values that the spec leaves to the
devices and the host. The values of the parameters stand in Sys2Proof/Machine/Params.lean. -/

namespace Sys2Proof

/-- Which of the two writes to VF comes last when X = 0xF (R130, decision D8). -/
inductive VfWriteOrder where
  | flagLast
  | resultLast
  deriving DecidableEq, Repr

/-- The implementation parameters of R6, one field for each row of its table. `reservedEnd` protects nothing (R61), and
`clockHz` and `timerHz` are timing only: no rule depends on them (R255). -/
structure Config where
  memSize : Nat
  numV : Nat
  vWidth : Nat
  iWidth : Nat
  pcWidth : Nat
  stackDepth : Nat
  stackSlotWidth : Nat
  /-- SP_RANGE is 0..spMax. -/
  spMax : Nat
  fbWidth : Nat
  fbHeight : Nat
  fontBase : Nat
  fontGlyphBytes : Nat
  fontSize : Nat
  font : List Byte
  reservedEnd : Nat
  programStart : Word
  maxRom : Nat
  instrBytes : Nat
  initFill : Byte
  sneRegAnyN : Bool
  vfWriteOrder : VfWriteOrder
  isPressed : Nibble → Byte → Bool
  /-- RNG: the byte of each draw, by the number of the draw. -/
  rng : Nat → Byte
  clockHz : Nat
  timerHz : Nat

/-- What the agents outside the core do between two steps of the core (R209, R221-R226).
`delayTicks` and `soundTicks` count the decrements offered to the timers, `setKey` is the key code of the last update
of the key state, if there was one, and `heldKeyWakes` says whether a key held when FX0A began ends the wait (D21). -/
structure EnvInput where
  delayTicks : Nat
  soundTicks : Nat
  setKey : Option Nibble
  heldKeyWakes : Bool
  deriving DecidableEq, Repr, Inhabited

/-- FREE VALUE (logs 20, 21, 22, 39): the outside agents' moves before the step that draws number `n`.
DESIGN CHOICE: nothing constrains it. Safe. -/
opaque Config.env (n : Nat) : EnvInput

/-- FREE VALUE (log 19): the byte that RandomByte returns at draw number `n` (R46, D20).
DESIGN CHOICE: nothing constrains it. Safe. -/
opaque Config.randomByte (n : Nat) : Byte

end Sys2Proof
end

