-- ==== Sys2Proof/Machine/Params.lean ====
section
/-! DEFINITION. The values of the parameters (spec/00_scope.md R6, spec/10_state.md R29 and R44, spec/92 D1, D6-D8, D19). -/

namespace Sys2Proof.Machine

/-- The conventional hexadecimal font, glyph d at bytes 5d .. 5d+4 (R29).
PRESUMED (log 5): the spec supplies the bytes from general knowledge (D6, G2). -/
def fontBytes : List Byte :=
  [0xF0, 0x90, 0x90, 0x90, 0xF0] ++ [0x20, 0x60, 0x20, 0x20, 0x70] ++ [0xF0, 0x10, 0xF0, 0x80, 0xF0]
  ++ [0xF0, 0x10, 0xF0, 0x10, 0xF0] ++ [0x90, 0x90, 0xF0, 0x10, 0x10] ++ [0xF0, 0x80, 0xF0, 0x10, 0xF0]
  ++ [0xF0, 0x80, 0xF0, 0x90, 0xF0] ++ [0xF0, 0x10, 0x20, 0x40, 0x40] ++ [0xF0, 0x90, 0xF0, 0x90, 0xF0]
  ++ [0xF0, 0x90, 0xF0, 0x10, 0xF0] ++ [0xF0, 0x90, 0xF0, 0x90, 0x90] ++ [0xE0, 0x90, 0xE0, 0x90, 0xE0]
  ++ [0xF0, 0x80, 0x80, 0x80, 0xF0] ++ [0xE0, 0x90, 0x90, 0x90, 0xE0] ++ [0xF0, 0x80, 0xF0, 0x80, 0xF0]
  ++ [0xF0, 0x80, 0xF0, 0x80, 0x80]

/-- IS_PRESSED: key code 0 means no key, and the state names one key (R44).
DESIGN CHOICE of the spec (D19, log 18). -/
def isPressedDefault (ks : Nibble) (v : Byte) : Bool :=
  decide (ks ≠ 0) && decide (v = ks.setWidth 8)

/-! ## The parameters that shape the types of the state (R6, log 33): each number is written here and nowhere else -/

/-- NUM_V (R20). -/
@[simp] abbrev numV : Nat := 16
/-- V_WIDTH (R20). -/
@[simp] abbrev vWidth : Nat := 8
/-- I_WIDTH (R24). -/
@[simp] abbrev iWidth : Nat := 16
/-- PC_WIDTH (R25). -/
@[simp] abbrev pcWidth : Nat := 16
/-- STACK_DEPTH (R26). -/
@[simp] abbrev stackDepth : Nat := 16
/-- STACK_SLOT_WIDTH (R26). -/
@[simp] abbrev stackSlotWidth : Nat := 16
/-- SP_RANGE is 0..STACK_DEPTH: SP counts the entries (R26). -/
@[simp] abbrev spMax : Nat := stackDepth
/-- FB_WIDTH (R30). -/
@[simp] abbrev fbWidth : Nat := 64
/-- FB_HEIGHT (R30). -/
@[simp] abbrev fbHeight : Nat := 32

/-- A general register. -/
abbrev VReg := BitVec vWidth
/-- The index register. -/
abbrev IReg := BitVec iWidth
/-- The program counter. -/
abbrev PcReg := BitVec pcWidth
/-- A slot of the call stack. -/
abbrev StackSlot := BitVec stackSlotWidth

/-- Every parameter at the default of R6 (log 33). The definitions of the machine read the parameters from here; only a
type of the state names a shape directly. -/
def params : Config where
  memSize := 4096
  numV := numV
  vWidth := vWidth
  iWidth := iWidth
  pcWidth := pcWidth
  stackDepth := stackDepth
  stackSlotWidth := stackSlotWidth
  spMax := spMax
  fbWidth := fbWidth
  fbHeight := fbHeight
  fontBase := 0x000
  fontGlyphBytes := 5
  fontSize := 80
  font := fontBytes
  reservedEnd := 0x1FF
  programStart := 0x200#16
  maxRom := 0xE00
  instrBytes := 2
  initFill := 0x00#8
  sneRegAnyN := false
  vfWriteOrder := .flagLast
  isPressed := isPressedDefault
  rng := Config.randomByte
  clockHz := 500
  timerHz := 60

end Sys2Proof.Machine
end

