-- ==== Sys2Proof/Syntax.lean ====
section
/-! DEFINITION. The 35 instructions, one constructor per row of spec/opcode_table.json (spec/30_encoding.md R74, R75). -/

namespace Sys2Proof

/-- An instruction with its operands (R73). Register operands are the fields X and Y. `shr` and `shl` carry Y, which is
decoded but not read (R84); `seReg` carries no N, which the decoder ignores (R82). -/
inductive Instr where
  /-- 00E0 -/
  | cls
  /-- 00EE -/
  | ret
  /-- 0NNN, NNN at least 0x100 -/
  | sys (nnn : Addr)
  /-- 1NNN -/
  | jp (nnn : Addr)
  /-- 2NNN -/
  | call (nnn : Addr)
  /-- 3XKK -/
  | seImm (x : Nibble) (kk : Byte)
  /-- 4XKK -/
  | sneImm (x : Nibble) (kk : Byte)
  /-- 5XYN, any N -/
  | seReg (x y : Nibble)
  /-- 6XKK -/
  | ldImm (x : Nibble) (kk : Byte)
  /-- 7XKK -/
  | addImm (x : Nibble) (kk : Byte)
  /-- 8XY0 -/
  | ldReg (x y : Nibble)
  /-- 8XY1 -/
  | or (x y : Nibble)
  /-- 8XY2 -/
  | and (x y : Nibble)
  /-- 8XY3 -/
  | xor (x y : Nibble)
  /-- 8XY4 -/
  | addReg (x y : Nibble)
  /-- 8XY5 -/
  | sub (x y : Nibble)
  /-- 8XY6 -/
  | shr (x y : Nibble)
  /-- 8XY7 -/
  | subn (x y : Nibble)
  /-- 8XYE -/
  | shl (x y : Nibble)
  /-- 9XY0 -/
  | sneReg (x y : Nibble)
  /-- ANNN -/
  | ldI (nnn : Addr)
  /-- BNNN -/
  | jpV0 (nnn : Addr)
  /-- CXKK -/
  | rnd (x : Nibble) (kk : Byte)
  /-- DXYN -/
  | drw (x y n : Nibble)
  /-- EX9E -/
  | skp (x : Nibble)
  /-- EXA1 -/
  | sknp (x : Nibble)
  /-- FX07 -/
  | ldVxDt (x : Nibble)
  /-- FX0A -/
  | ldVxK (x : Nibble)
  /-- FX15 -/
  | ldDtVx (x : Nibble)
  /-- FX18 -/
  | ldStVx (x : Nibble)
  /-- FX1E -/
  | addIVx (x : Nibble)
  /-- FX29 -/
  | ldFVx (x : Nibble)
  /-- FX33 -/
  | ldBVx (x : Nibble)
  /-- FX55 -/
  | ldMemVx (x : Nibble)
  /-- FX65 -/
  | ldVxMem (x : Nibble)
  deriving DecidableEq, Repr

end Sys2Proof
end

