-- ==== Sys2Proof/Decode.lean ====
section
/-! DEFINITION. The decoder, total on every word and every list of bytes (spec/30_encoding.md R71, R74, R76, R81-R83),
and after it the encoder, from the same table. -/

namespace Sys2Proof

/-- Why the decoder gives no instruction: the five classes of invalid words of R76, and a byte list too short to hold
a word (which a fetch never hands over). -/
inductive Reject where
  /-- 00KK with KK not E0 or EE (R81) -/
  | zeroRow
  /-- 8XYN with N in 8..D or F -/
  | eightRow
  /-- 9XYN with N not 0 (R83) -/
  | nineRow
  /-- EXKK with KK not 9E or A1 -/
  | eRow
  /-- FXKK with KK none of the nine selectors -/
  | fRow
  /-- fewer than two bytes -/
  | truncated
  deriving DecidableEq, Repr

/-! ## Fields (R71) -/

/-- op[15:12], the primary dispatch key. -/
def fieldT (op : Word) : Nibble := op.extractLsb' 12 4
/-- op[11:8]. -/
def fieldX (op : Word) : Nibble := op.extractLsb' 8 4
/-- op[7:4]. -/
def fieldY (op : Word) : Nibble := op.extractLsb' 4 4
/-- op[3:0]. -/
def fieldN (op : Word) : Nibble := op.extractLsb' 0 4
/-- op[7:0]. -/
def fieldKK (op : Word) : Byte := op.extractLsb' 0 8
/-- op[11:0]. -/
def fieldNNN (op : Word) : Addr := op.extractLsb' 0 12

/-! ## Decoder (R74) -/

/-- Row 0: CLS, RET, SYS when op[11:8] is not 0, else invalid (R81, 90_conflicts C1). -/
def decodeZero (op : Word) : Except Reject Instr :=
  if op = 0x00E0 then .ok .cls
  else if op = 0x00EE then .ok .ret
  else if fieldX op ≠ 0 then .ok (.sys (fieldNNN op))
  else .error .zeroRow

/-- Row 8, selected by N. -/
def decodeEight (op : Word) : Except Reject Instr :=
  let x := fieldX op
  let y := fieldY op
  if fieldN op = 0x0 then .ok (.ldReg x y)
  else if fieldN op = 0x1 then .ok (.or x y)
  else if fieldN op = 0x2 then .ok (.and x y)
  else if fieldN op = 0x3 then .ok (.xor x y)
  else if fieldN op = 0x4 then .ok (.addReg x y)
  else if fieldN op = 0x5 then .ok (.sub x y)
  else if fieldN op = 0x6 then .ok (.shr x y)
  else if fieldN op = 0x7 then .ok (.subn x y)
  else if fieldN op = 0xE then .ok (.shl x y)
  else .error .eightRow

/-- Row 9: N must be 0 unless the parameter SNE_REG_ANY_N is set (R83, D7, log 6). -/
def decodeNine (anyN : Bool) (op : Word) : Except Reject Instr :=
  if fieldN op = 0x0 ∨ anyN = true then .ok (.sneReg (fieldX op) (fieldY op)) else .error .nineRow

/-- Row E, selected by KK. -/
def decodeE (op : Word) : Except Reject Instr :=
  if fieldKK op = 0x9E then .ok (.skp (fieldX op))
  else if fieldKK op = 0xA1 then .ok (.sknp (fieldX op))
  else .error .eRow

/-- Row F, selected by KK. -/
def decodeF (op : Word) : Except Reject Instr :=
  let x := fieldX op
  if fieldKK op = 0x07 then .ok (.ldVxDt x)
  else if fieldKK op = 0x0A then .ok (.ldVxK x)
  else if fieldKK op = 0x15 then .ok (.ldDtVx x)
  else if fieldKK op = 0x18 then .ok (.ldStVx x)
  else if fieldKK op = 0x1E then .ok (.addIVx x)
  else if fieldKK op = 0x29 then .ok (.ldFVx x)
  else if fieldKK op = 0x33 then .ok (.ldBVx x)
  else if fieldKK op = 0x55 then .ok (.ldMemVx x)
  else if fieldKK op = 0x65 then .ok (.ldVxMem x)
  else .error .fRow

/-- The decoder of R74 with the parameter SNE_REG_ANY_N as an argument. Row 5 ignores N (R82, 90_conflicts C2).
Every top nibble is used: the last branch is t = 0xF. -/
def decodeWith (anyN : Bool) (op : Word) : Except Reject Instr :=
  if fieldT op = 0x0 then decodeZero op
  else if fieldT op = 0x1 then .ok (.jp (fieldNNN op))
  else if fieldT op = 0x2 then .ok (.call (fieldNNN op))
  else if fieldT op = 0x3 then .ok (.seImm (fieldX op) (fieldKK op))
  else if fieldT op = 0x4 then .ok (.sneImm (fieldX op) (fieldKK op))
  else if fieldT op = 0x5 then .ok (.seReg (fieldX op) (fieldY op))
  else if fieldT op = 0x6 then .ok (.ldImm (fieldX op) (fieldKK op))
  else if fieldT op = 0x7 then .ok (.addImm (fieldX op) (fieldKK op))
  else if fieldT op = 0x8 then decodeEight op
  else if fieldT op = 0x9 then decodeNine anyN op
  else if fieldT op = 0xA then .ok (.ldI (fieldNNN op))
  else if fieldT op = 0xB then .ok (.jpV0 (fieldNNN op))
  else if fieldT op = 0xC then .ok (.rnd (fieldX op) (fieldKK op))
  else if fieldT op = 0xD then .ok (.drw (fieldX op) (fieldY op) (fieldN op))
  else if fieldT op = 0xE then decodeE op
  else decodeF op

/-- The decoder of the machine. -/
def decode (op : Word) : Except Reject Instr := decodeWith Machine.params.sneRegAnyN op

/-- Two bytes as one big-endian word: the byte at the lower address is op[15:8] (R56). -/
def wordOfBytes (hi lo : Byte) : Word := (hi ++ lo).cast (by decide)

/-- One instruction from a list of bytes, with the bytes after it: every instruction is two bytes (R70). -/
def decodeBytes : List Byte → Except Reject (Instr × List Byte)
  | hi :: lo :: rest =>
    match decode (wordOfBytes hi lo) with
    | .ok i => .ok (i, rest)
    | .error e => .error e
  | [_] => .error .truncated
  | [] => .error .truncated

/-- The two bytes of the word `w` as they lie in memory, lower address first (R56). -/
def bytesOfWord (w : Word) : List Byte := [w.extractLsb' 8 8, w.extractLsb' 0 8]

/-- The opcode table numbers a row's bits with bit 0 the least significant bit of its one 16-bit word; bits at or above
`nbits` are 0. -/
def tableWord (nbits w : Nat) : Word := BitVec.ofNat 16 (w % 2 ^ nbits)

/-- What the decoder reads from the instruction whose bits, numbered as the opcode table numbers them, are `w`. -/
def decodeTableWord (nbits w : Nat) : Option Instr :=
  match decodeBytes (bytesOfWord (tableWord nbits w)) with
  | .ok (i, _) => some i
  | .error _ => none

/-! ## Encoder (the patterns of R75 and opcode_table.json) -/

/-- Format NNN (R72). -/
def packNNN (t : Nibble) (nnn : Addr) : Word := (t ++ nnn).cast (by decide)
/-- Formats XKK and XFN (R72). -/
def packXKK (t x : Nibble) (kk : Byte) : Word := (t ++ x ++ kk).cast (by decide)
/-- Format XYN (R72). -/
def packXYN (t x y n : Nibble) : Word := (t ++ x ++ y ++ n).cast (by decide)

/-- The word of a well-formed instruction. The ignored N of 5XYN is 0. -/
def encode : Instr → Word
  | .cls => 0x00E0
  | .ret => 0x00EE
  | .sys nnn => packNNN 0x0 nnn
  | .jp nnn => packNNN 0x1 nnn
  | .call nnn => packNNN 0x2 nnn
  | .seImm x kk => packXKK 0x3 x kk
  | .sneImm x kk => packXKK 0x4 x kk
  | .seReg x y => packXYN 0x5 x y 0x0
  | .ldImm x kk => packXKK 0x6 x kk
  | .addImm x kk => packXKK 0x7 x kk
  | .ldReg x y => packXYN 0x8 x y 0x0
  | .or x y => packXYN 0x8 x y 0x1
  | .and x y => packXYN 0x8 x y 0x2
  | .xor x y => packXYN 0x8 x y 0x3
  | .addReg x y => packXYN 0x8 x y 0x4
  | .sub x y => packXYN 0x8 x y 0x5
  | .shr x y => packXYN 0x8 x y 0x6
  | .subn x y => packXYN 0x8 x y 0x7
  | .shl x y => packXYN 0x8 x y 0xE
  | .sneReg x y => packXYN 0x9 x y 0x0
  | .ldI nnn => packNNN 0xA nnn
  | .jpV0 nnn => packNNN 0xB nnn
  | .rnd x kk => packXKK 0xC x kk
  | .drw x y n => packXYN 0xD x y n
  | .skp x => packXKK 0xE x 0x9E
  | .sknp x => packXKK 0xE x 0xA1
  | .ldVxDt x => packXKK 0xF x 0x07
  | .ldVxK x => packXKK 0xF x 0x0A
  | .ldDtVx x => packXKK 0xF x 0x15
  | .ldStVx x => packXKK 0xF x 0x18
  | .addIVx x => packXKK 0xF x 0x1E
  | .ldFVx x => packXKK 0xF x 0x29
  | .ldBVx x => packXKK 0xF x 0x33
  | .ldMemVx x => packXKK 0xF x 0x55
  | .ldVxMem x => packXKK 0xF x 0x65

/-- The bytes of an instruction as they lie in memory. -/
def encodeBytes (i : Instr) : List Byte := bytesOfWord (encode i)

end Sys2Proof
end

