-- ==== Sys2Proof/Machine/Memory.lean ====
section
/-! DEFINITION. MEM as a list of cells in one canonical form (spec/10_state.md R29, R38; spec/20_memory.md R50-R54;
log 35): addresses strictly rising, every address below 4096, no cell that holds what an unlisted address reads as. -/

namespace Sys2Proof.Machine

/-- The written cells of MEM. -/
abbrev Memory := List Host.Cell

/-- What an address with no cell reads as: the contents after construction, FONT from FONT_BASE and INIT_FILL
elsewhere (R29, R38, R240 step 1; logs 1 and 5). -/
def unlistedByte (a : Nat) : Byte :=
  if params.fontBase ≤ a ∧ a < params.fontBase + params.fontSize then
    (params.font[a - params.fontBase]?).getD params.initFill
  else params.initFill

/-- One byte of MEM. -/
def Memory.read : Memory → Nat → Byte
  | [], a => unlistedByte a
  | (c, d) :: rest, a => if c = a then d else Memory.read rest a

/-- Set one byte of MEM, keeping the canonical form: a cell that would hold the unlisted byte is dropped. -/
def Memory.write : Memory → Nat → Byte → Memory
  | [], a, b => if b = unlistedByte a then [] else [(a, b)]
  | (c, d) :: rest, a, b =>
    if a < c then (if b = unlistedByte a then (c, d) :: rest else (a, b) :: (c, d) :: rest)
    else if a = c then (if b = unlistedByte a then rest else (a, b) :: rest)
    else (c, d) :: Memory.write rest a b

/-- The bytes at a, a+1, ... of a list, in ascending address order (R54). -/
def Memory.writeBytes (m : Memory) (a : Nat) : List Byte → Memory
  | [] => m
  | b :: bs => Memory.writeBytes (m.write a b) (a + 1) bs

/-- The n bytes at a, a+1, ..., a+n-1 (R53). -/
def Memory.readBytes (m : Memory) (a n : Nat) : List Byte := (List.range n).map fun k => m.read (a + k)

/-- The canonical form for the cells at addresses `lo` and above. -/
def Memory.wfFrom (lo : Nat) : Memory → Bool
  | [] => true
  | (c, d) :: rest =>
    decide (lo ≤ c) && decide (c < params.memSize) && decide (d ≠ unlistedByte c) && Memory.wfFrom (c + 1) rest

/-- The canonical form. -/
def Memory.wf (m : Memory) : Bool := m.wfFrom 0

end Sys2Proof.Machine
end

