-- ==== Sys2Proof/Machine/State.lean ====
section
/-! DEFINITION. The state of the machine as plain data (spec/10_state.md R20-R47), the reasons a step stops, and the
state after reset (spec/10_state.md R38, spec/70_reset_and_hazards.md R240). -/

namespace Sys2Proof.Machine

/-- The causes of a halt (R201). `invalidRange` stands in the list because the document names it; no instruction
raises it (R55). -/
inductive Cause where
  | outOfBounds
  | invalidRange
  | stackOverflow
  | stackUnderflow
  | invalidOpcode
  deriving DecidableEq, Repr

/-- What a raise records beside its cause: the address and length of a failed access (R52-R54, R201), or SP for a
stack fault (R27, R28). -/
inductive FaultInfo where
  | none
  | access (addr len : Nat)
  | stack (sp : Nat)
  deriving DecidableEq, Repr

/-- `raise E(info)` (R9): a cause and its info. -/
structure Raise where
  cause : Cause
  info : FaultInfo
  deriving DecidableEq, Repr

/-- The record of Halted (R33, R202): the cause, the address of the faulting instruction, its opcode (none for a fetch
fault) and the info of the raise. -/
structure HaltRecord where
  cause : Cause
  faultPc : PcReg
  opcode : Option Word
  info : FaultInfo
  deriving DecidableEq, Repr

/-- RunState (R33). -/
inductive RunState where
  /-- the core fetches at pc on its next step -/
  | running
  /-- paused inside FX0A, destination register x -/
  | waitingKey (x : Nibble)
  /-- the fatal stop -/
  | halted (record : HaltRecord)
  deriving DecidableEq, Repr

/-- The framebuffer: FB_HEIGHT rows of FB_WIDTH one-bit pixels, FB[y][x] (R30). -/
abbrev Framebuffer := Vector (Vector Bool fbWidth) fbHeight

/-- CoreState of spec/10_state.md, the devices' state that instructions read or write (R41-R44, R221-R224), and the
model's own counter of free values drawn. -/
structure State where
  /-- V0..VF (R20) -/
  v : Vector VReg numV
  /-- the index register (R24) -/
  i : IReg
  /-- the program counter (R25) -/
  pc : PcReg
  /-- SP, the number of entries pushed and not yet popped (R26) -/
  sp : Fin (spMax + 1)
  /-- STACK (R26) -/
  stack : Vector StackSlot stackDepth
  /-- MEM (R29) -/
  mem : Memory
  /-- FB (R30) -/
  fb : Framebuffer
  /-- run (R33) -/
  run : RunState
  /-- the delay timer's value (R41, R42, R221) -/
  dt : Byte
  /-- the sound timer's value (R43, R223) -/
  st : Byte
  /-- ks, the key state: 0 is no key (R44, R224) -/
  ks : Nibble
  /-- DESIGN CHOICE (log 29): the MODEL'S OWN field, the number of free values drawn so far -/
  draws : Nat
  deriving DecidableEq, Repr

/-- Why a step stops. -/
inductive Fault where
  /-- Raised by `step` alone, in a state whose run is Halted: a halted core takes no step (R206, D32), and the record is
  what it surfaces to its caller (R202). No meaning raises it. Safe: the hardware does not go on either (log 17). -/
  | coreHalted (record : HaltRecord)
  deriving DecidableEq, Repr

/-- Why a step is refused. -/
inductive Refusal where
  /-- Answered by exec's arm alone, for an instruction without a meaning. Safe: the model stops where the hardware goes
  on. No arm answers it now. -/
  | notModelled (mnemonic : String)
  deriving DecidableEq, Repr

/-- The machine after construction and the load of the empty ROM (R38, R240, R241; logs 1-5, 22, 23, 28, 29). INIT_FILL
fills V, I, the stack and the framebuffer (R6): zero-extended to their widths, its bit 0 in a pixel. -/
def State.reset : State where
  v := Vector.replicate numV (params.initFill.setWidth vWidth)
  i := params.initFill.setWidth iWidth
  pc := params.programStart
  sp := 0
  stack := Vector.replicate stackDepth (params.initFill.setWidth stackSlotWidth)
  mem := []
  fb := Vector.replicate fbHeight (Vector.replicate fbWidth (params.initFill.getLsbD 0))
  run := .running
  dt := 0
  st := 0
  ks := 0
  draws := 0

end Sys2Proof.Machine
end

