-- ==== Sys2Proof/Machine/Ops.lean ====
section
/-! DEFINITION. The named operations over the state: registers (spec/10_state.md R20-R25), the call stack (R26-R28),
memory (spec/20_memory.md R51-R56), and the one way a fatal condition is taken (spec/60_exceptions.md R202, R205). There
is no return from a fault: a halt has none (R206). -/

namespace Sys2Proof.Machine

/-- The outcome of a step or of a meaning. -/
abbrev Result := Host.Outcome State Fault Refusal

/-! ## Registers -/

/-- A register number names one of the NUM_V registers (R20). -/
theorem regNumber_lt (x : Nibble) : x.toNat < numV := Nat.lt_of_lt_of_le x.isLt (by decide)

/-- V[x] (R20). -/
def State.getV (s : State) (x : Nibble) : VReg := s.v[x.toNat]'(regNumber_lt x)
/-- V[x] <- b (R20). -/
def State.setV (s : State) (x : Nibble) (b : VReg) : State := { s with v := s.v.set x.toNat b (regNumber_lt x) }
/-- I <- w (R24). -/
def State.setI (s : State) (w : IReg) : State := { s with i := w }
/-- pc <- target (R25). -/
def State.setPc (s : State) (w : PcReg) : State := { s with pc := w }
/-- SP and the slots of the call stack (R26). -/
def State.setStack (s : State) (stack : Vector StackSlot stackDepth) (sp : Fin (spMax + 1)) : State :=
  { s with stack := stack, sp := sp }
/-- All of MEM. -/
def State.setMem (s : State) (m : Memory) : State := { s with mem := m }
/-- All of FB. -/
def State.setFb (s : State) (fb : Framebuffer) : State := { s with fb := fb }
/-- run (R33). -/
def State.setRun (s : State) (r : RunState) : State := { s with run := r }
/-- The delay timer's value (R42). -/
def State.setDt (s : State) (b : Byte) : State := { s with dt := b }
/-- The sound timer's value (R43). -/
def State.setSt (s : State) (b : Byte) : State := { s with st := b }
/-- The key state (R224). -/
def State.setKs (s : State) (k : Nibble) : State := { s with ks := k }
/-- One free value has been drawn (log 29). -/
def State.drawn (s : State) : State := { s with draws := s.draws + 1 }

/-- VF (R21). -/
def regF : Nibble := 0xF

/-- readVRange(start, count): OutOfBounds when start + count > NUM_V (R23). -/
def readVRange (s : State) (start count : Nat) : Except Raise (List VReg) :=
  if start + count ≤ params.numV then .ok ((s.v.toList.drop start).take count)
  else .error { cause := .outOfBounds, info := .access start count }

/-- V[k], V[k+1], ... from a list. -/
def State.putV (s : State) (k : Nat) : List VReg → State
  | [] => s
  | b :: bs => State.putV { s with v := s.v.setIfInBounds k b } (k + 1) bs

/-- writeVRange(start, bytes): OutOfBounds when start + count > NUM_V (R23). -/
def writeVRange (s : State) (start : Nat) (bytes : List VReg) : Except Raise State :=
  if start + bytes.length ≤ params.numV then .ok (s.putV start bytes)
  else .error { cause := .outOfBounds, info := .access start bytes.length }

/-! ## Memory -/

/-- InRange(a, n) over unbounded naturals (R52; D14 for n = 0, log 13). -/
def inRange (a n : Nat) : Bool := decide (a + n ≤ params.memSize)

/-- MemRead(a, n) (R53). -/
def memRead (s : State) (a n : Nat) : Except Raise (List Byte) :=
  if inRange a n then .ok (s.mem.readBytes a n)
  else .error { cause := .outOfBounds, info := .access a n }

/-- MemWrite(a, n, bytes) with n the length of the list: the whole span is checked before the first write
(R54; D15, log 14). -/
def memWrite (s : State) (a : Nat) (bytes : List Byte) : Except Raise State :=
  if inRange a bytes.length then .ok (s.setMem (s.mem.writeBytes a bytes))
  else .error { cause := .outOfBounds, info := .access a bytes.length }

/-- Fetch16(a): the INSTR_BYTES = 2 bytes of a word, the lower address most significant (R56). -/
def fetch16 (s : State) (a : Nat) : Except Raise Word :=
  match memRead s a params.instrBytes with
  | .error r => .error r
  | .ok bytes => .ok (wordOfBytes (bytes.getD 0 0) (bytes.getD 1 0))

/-! ## Call stack -/

/-- Push(v): StackOverflow when STACK_DEPTH entries are on the stack (R27). -/
def push (s : State) (w : StackSlot) : Except Raise State :=
  if h : s.sp.val < params.stackDepth then .ok (s.setStack (s.stack.set s.sp.val w h) ⟨s.sp.val + 1, Nat.succ_lt_succ h⟩)
  else .error { cause := .stackOverflow, info := .stack s.sp.val }

/-- Pop(): StackUnderflow when the stack is empty; the slot is not cleared (R28). -/
def pop (s : State) : Except Raise (StackSlot × State) :=
  if s.sp.val = 0 then .error { cause := .stackUnderflow, info := .stack 0 }
  else .ok (s.stack[s.sp.val - 1]'(by have := s.sp.isLt; simp only [spMax, stackDepth] at this ⊢; omega),
    s.setStack s.stack ⟨s.sp.val - 1, by have := s.sp.isLt; simp only [spMax, stackDepth] at this ⊢; omega⟩)

/-! ## Control -/

/-- pc <- pc + INSTR_BYTES: the fetch advance (R85) and the skip (R120). -/
def State.advance (s : State) : State := s.setPc (s.pc + BitVec.ofNat pcWidth params.instrBytes)

/-- `if c: Skip()` (R120). -/
def skipIf (c : Bool) (s : State) : State := if c then s.advance else s

/-! ## Taking a fatal condition -/

/-- run <- Halted(record), and nothing else (R202, R205). -/
def State.halt (s : State) (record : HaltRecord) : State := s.setRun (.halted record)

/-- A fetch fault: pc still holds the address of the fetch, and there is no opcode (R85, R205; D16, log 15). -/
def raiseFetch (r : Raise) (s : State) : Result :=
  .next (s.halt { cause := r.cause, faultPc := s.pc, opcode := none, info := r.info })

/-- A decode or execute fault of the word `op`: pc has been advanced past it, so fault_pc is pc - 2 (R85, R202, R205;
D16 and D17, logs 15 and 16). -/
def raise (r : Raise) (op : Word) (s : State) : Result :=
  .next (s.halt { cause := r.cause, faultPc := s.pc - BitVec.ofNat pcWidth params.instrBytes, opcode := some op,
                  info := r.info })

end Sys2Proof.Machine
end

