-- ==== Sys2Proof/Machine/Flags.lean ====
section
/-! DEFINITION. The flag computations and the write of a result with its flag (spec/43_alu.md R130, R137-R141). VF is
the only flag (spec/10_state.md R21, R34). -/

namespace Sys2Proof.Machine

/-- A flag as the byte written to VF. -/
def flagByte (c : Bool) : VReg := if c then 1 else 0

/-- 8XY4: the exact sum exceeds the largest value of V_WIDTH bits, 255 (R137). -/
def carryOut (a b : VReg) : Bool := decide (2 ^ params.vWidth - 1 < a.toNat + b.toNat)

/-- 8XY5 and 8XY7: no borrow, the minuend is at least the subtrahend (R138, R140). -/
def noBorrow (a b : VReg) : Bool := decide (b.toNat ≤ a.toNat)

/-- 8XY6: bit 0 before the shift (R139). -/
def shiftedOutLow (a : VReg) : Bool := a.getLsbD 0

/-- 8XYE: the top bit, bit 7, before the shift (R141). -/
def shiftedOutHigh (a : VReg) : Bool := a.getLsbD (params.vWidth - 1)

/-- WriteRF(x, r, f) for both values of VF_WRITE_ORDER (R130). -/
def writeRFWith (order : VfWriteOrder) (x : Nibble) (r : VReg) (f : Bool) (s : State) : State :=
  match order with
  | .flagLast => (s.setV x r).setV regF (flagByte f)
  | .resultLast => (s.setV regF (flagByte f)).setV x r

/-- WriteRF at the machine's parameter, flag_last by default (D8, log 7). -/
def writeRF (x : Nibble) (r : VReg) (f : Bool) (s : State) : State := writeRFWith params.vfWriteOrder x r f s

end Sys2Proof.Machine
end

