-- ==== Sys2Proof/Machine/Operands.lean ====
section
/-! DEFINITION. Operand assembly (spec/30_encoding.md R73): every immediate is zero-extended, none is scaled. -/

namespace Sys2Proof.Machine

/-- zext_16(NNN), at the width of the register it goes to (R73). -/
def addrOf {w : Nat} (nnn : Addr) : BitVec w := nnn.setWidth w

/-- zext_16(V[x]), at the width of the register it goes to (R114, R152, R153). -/
def wordOfV {w : Nat} (s : State) (x : Nibble) : BitVec w := (s.getV x).setWidth w

/-- The effective address of every memory operand is I itself: no offset, no scaling, no 12-bit mask (R24, R150). -/
def memAddr (s : State) : Nat := s.i.toNat

/-- The number of registers FX55 and FX65 move: X + 1 (R155, R156). -/
def rangeCount (x : Nibble) : Nat := x.toNat + 1

/-- The three decimal digits of a byte, hundreds first (R154). -/
def bcdDigits (b : Byte) : List Byte :=
  [BitVec.ofNat 8 (b.toNat / 100), BitVec.ofNat 8 (b.toNat / 10 % 10), BitVec.ofNat 8 (b.toNat % 10)]

/-- The base of the glyph that FX29 selects: V[X] * 5, with no nibble mask (R153). The font starts at FONT_BASE. -/
def glyphAddr (b : IReg) : IReg := BitVec.ofNat iWidth params.fontBase + b * BitVec.ofNat iWidth params.fontGlyphBytes

end Sys2Proof.Machine
end

