-- ==== Sys2Proof/Machine/Alu.lean ====
section
/-! DEFINITION. Register ALU instructions (spec/43_alu.md R130-R143). Sources are read before any register is written
(R130; D9, log 8). -/

namespace Sys2Proof.Machine

/-- LD Vx, byte (R131). -/
def execLdImm (x : Nibble) (kk : Byte) (s : State) : Result := .next (s.setV x kk)

/-- ADD Vx, byte (R132): wrapping, no flag. -/
def execAddImm (x : Nibble) (kk : Byte) (s : State) : Result := .next (s.setV x (s.getV x + kk))

/-- LD Vx, Vy (R133). -/
def execLdReg (x y : Nibble) (s : State) : Result := .next (s.setV x (s.getV y))

/-- OR Vx, Vy (R134): VF is left alone (D10, log 9). -/
def execOr (x y : Nibble) (s : State) : Result := .next (s.setV x (s.getV x ||| s.getV y))

/-- AND Vx, Vy (R135). -/
def execAnd (x y : Nibble) (s : State) : Result := .next (s.setV x (s.getV x &&& s.getV y))

/-- XOR Vx, Vy (R136). -/
def execXor (x y : Nibble) (s : State) : Result := .next (s.setV x (s.getV x ^^^ s.getV y))

/-- ADD Vx, Vy (R137). -/
def execAddReg (x y : Nibble) (s : State) : Result :=
  .next (writeRF x (s.getV x + s.getV y) (carryOut (s.getV x) (s.getV y)) s)

/-- SUB Vx, Vy (R138). -/
def execSub (x y : Nibble) (s : State) : Result :=
  .next (writeRF x (s.getV x - s.getV y) (noBorrow (s.getV x) (s.getV y)) s)

/-- SHR Vx (R139): V[Y] is not read (R84). -/
def execShr (x _y : Nibble) (s : State) : Result :=
  .next (writeRF x (s.getV x >>> 1) (shiftedOutLow (s.getV x)) s)

/-- SUBN Vx, Vy (R140). -/
def execSubn (x y : Nibble) (s : State) : Result :=
  .next (writeRF x (s.getV y - s.getV x) (noBorrow (s.getV y) (s.getV x)) s)

/-- SHL Vx (R141): V[Y] is not read (R84). -/
def execShl (x _y : Nibble) (s : State) : Result :=
  .next (writeRF x (s.getV x <<< 1) (shiftedOutHigh (s.getV x)) s)

/-- RND with the byte the random source answered (R142). -/
def rndWith (r : Byte) (x : Nibble) (kk : Byte) (s : State) : State := (s.setV x (r &&& kk)).drawn

/-- RND Vx, byte (R142): RandomByte() is a free value, a fresh one per execution (R46; D20, log 19). -/
def execRnd (x : Nibble) (kk : Byte) (s : State) : Result := .next (rndWith (params.rng s.draws) x kk s)

end Sys2Proof.Machine
end

