-- ==== Sys2Proof/Machine/Control.lean ====
section
/-! DEFINITION. Control transfer (spec/41_control_flow.md R110-R115). pc is a + 2 when a meaning runs (R85). -/

namespace Sys2Proof.Machine

/-- RET (R110). -/
def execRet (s : State) : Result :=
  match pop s with
  | .error r => raise r (encode .ret) s
  | .ok (target, s') => .next (s'.setPc target)

/-- SYS, executed as a jump (R111). -/
def execSys (nnn : Addr) (s : State) : Result := .next (s.setPc (addrOf nnn))

/-- JP (R112). -/
def execJp (nnn : Addr) (s : State) : Result := .next (s.setPc (addrOf nnn))

/-- CALL (R113): the pushed pc is the already advanced one. -/
def execCall (nnn : Addr) (s : State) : Result :=
  match push s s.pc with
  | .error r => raise r (encode (.call nnn)) s
  | .ok s' => .next (s'.setPc (addrOf nnn))

/-- JP V0 (R114): a plain 16-bit sum, with no 12-bit mask. -/
def execJpV0 (nnn : Addr) (s : State) : Result := .next (s.setPc (addrOf nnn + wordOfV s 0))

end Sys2Proof.Machine
end

