-- ==== Sys2Proof/Machine/Screen.lean ====
section
/-! DEFINITION. The framebuffer operations (spec/10_state.md R30-R32, spec/40_display.md R101). -/

namespace Sys2Proof.Machine

/-- FB[y mod FB_HEIGHT][x mod FB_WIDTH] (R30, R101). -/
def Framebuffer.pixel (fb : Framebuffer) (x y : Nat) : Bool :=
  (fb[y % params.fbHeight]'(Nat.mod_lt _ (by decide)))[x % params.fbWidth]'(Nat.mod_lt _ (by decide))

/-- FB[y mod FB_HEIGHT][x mod FB_WIDTH] <- FB[y mod FB_HEIGHT][x mod FB_WIDTH] ^ 1 (R101). -/
def Framebuffer.flip (fb : Framebuffer) (x y : Nat) : Framebuffer :=
  let row := fb[y % params.fbHeight]'(Nat.mod_lt _ (by decide))
  let px := row[x % params.fbWidth]'(Nat.mod_lt _ (by decide))
  fb.set (y % params.fbHeight) (row.set (x % params.fbWidth) (!px) (Nat.mod_lt _ (by decide))) (Nat.mod_lt _ (by decide))

/-- FbClear(): every pixel 0 (R31). -/
def fbClear : Framebuffer := Vector.replicate fbHeight (Vector.replicate fbWidth false)

/-- Column c of a sprite row is bit 7 - c of its byte (R101).
PRESUMED (log 12): the spec supplies the convention from general knowledge (D13, G3). -/
def spriteBit (row : Byte) (c : Nat) : Bool := row.getLsbD (7 - c)

/-- One set sprite bit at (x, y): flip the pixel, and note a collision if it was set (R101). -/
def drawPixel (acc : Framebuffer × Bool) (x y : Nat) : Framebuffer × Bool :=
  (acc.1.flip x y, acc.2 || acc.1.pixel x y)

/-- The columns c, c+1, ... of one sprite row, `left` of them (R101). -/
def drawColumns (row : Byte) (x0 y c : Nat) : Nat → Framebuffer × Bool → Framebuffer × Bool
  | 0, acc => acc
  | left + 1, acc =>
    drawColumns row x0 y (c + 1) left (if spriteBit row c then drawPixel acc (x0 + c) y else acc)

/-- The rows of a sprite from the top (R101). -/
def drawRows (x0 y : Nat) : List Byte → Framebuffer × Bool → Framebuffer × Bool
  | [], acc => acc
  | row :: rows, acc => drawRows x0 (y + 1) rows (drawColumns row x0 y 0 8 acc)

/-- FbDraw(x0, y0, rows): the new framebuffer and the collision bit (R101). -/
def fbDraw (fb : Framebuffer) (x0 y0 : Byte) (rows : List Byte) : Framebuffer × Bool :=
  drawRows x0.toNat y0.toNat rows (fb, false)

end Sys2Proof.Machine
end

