-- ==== Sys2Proof/Machine/Display.lean ====
section
/-! DEFINITION. 00E0 CLS and DXYN DRW (spec/40_display.md R100-R102). pc has been advanced when a meaning runs (R85). -/

namespace Sys2Proof.Machine

/-- CLS (R100). -/
def execCls (s : State) : Result := .next (s.setFb fbClear)

/-- DRW (R102): the coordinates and the rows are read before anything is written, and the bounds check of the N rows
comes first (D14, D15; logs 13, 14). -/
def execDrw (x y n : Nibble) (s : State) : Result :=
  match memRead s (memAddr s) n.toNat with
  | .error r => raise r (encode (.drw x y n)) s
  | .ok rows =>
    let drawn := fbDraw s.fb (s.getV x) (s.getV y) rows
    .next ((s.setFb drawn.1).setV regF (flagByte drawn.2))

end Sys2Proof.Machine
end

