-- ==== Sys2Proof/Machine/IndexMem.lean ====
section
/-! DEFINITION. The index register and the transfers through it (spec/44_index_memory.md R150-R156). FX33, FX55 and FX65
leave I as it was (R150; D12, log 11). -/

namespace Sys2Proof.Machine

/-- LD I, addr (R151). -/
def execLdI (nnn : Addr) (s : State) : Result := .next (s.setI (addrOf nnn))

/-- ADD I, Vx (R152): 16-bit wrap, no flag (D11, log 10). -/
def execAddIVx (x : Nibble) (s : State) : Result := .next (s.setI (s.i + wordOfV s x))

/-- LD F, Vx (R153). -/
def execLdFVx (x : Nibble) (s : State) : Result := .next (s.setI (glyphAddr (wordOfV s x)))

/-- LD B, Vx (R154). -/
def execLdBVx (x : Nibble) (s : State) : Result :=
  match memWrite s (memAddr s) (bcdDigits (s.getV x)) with
  | .error r => raise r (encode (.ldBVx x)) s
  | .ok s' => .next s'

/-- LD [I], Vx (R155). -/
def execLdMemVx (x : Nibble) (s : State) : Result :=
  match readVRange s 0 (rangeCount x) with
  | .error r => raise r (encode (.ldMemVx x)) s
  | .ok bytes =>
    match memWrite s (memAddr s) bytes with
    | .error r => raise r (encode (.ldMemVx x)) s
    | .ok s' => .next s'

/-- LD Vx, [I] (R156): the read comes before any register write. -/
def execLdVxMem (x : Nibble) (s : State) : Result :=
  match memRead s (memAddr s) (rangeCount x) with
  | .error r => raise r (encode (.ldVxMem x)) s
  | .ok bytes =>
    match writeVRange s 0 bytes with
    | .error r => raise r (encode (.ldVxMem x)) s
    | .ok s' => .next s'

end Sys2Proof.Machine
end

