-- ==== Sys2Proof/Machine/Ports.lean ====
section
/-! DEFINITION. The ports of the core (spec/10_state.md R40-R47), the contracts of the devices behind them
(spec/60_exceptions.md R220-R227) and the boot (spec/70_reset_and_hazards.md R240, R241). -/

namespace Sys2Proof.Machine

/-! ## Timers -/

/-- One decrement: by exactly 1, only when the value is not 0, never below 0 (R221). -/
def timerTick (b : Byte) : Byte := if b = 0 then 0 else b - 1

/-- `k` decrements (R221). -/
def timerDecay (b : Byte) : Nat → Byte
  | 0 => b
  | k + 1 => timerDecay (timerTick b) k

/-- A decay process is active for a timer that holds this value (R221, R222). DEDUCED (log 31). Safe. -/
def decaying (b : Byte) : Bool := decide (b ≠ 0)

/-- DelayRead() (R41). -/
def delayRead (s : State) : Byte := s.dt
/-- DelayWrite(b) (R42, R222). -/
def delayWrite (b : Byte) (s : State) : State := s.setDt b
/-- SoundWrite(b) (R43, R223). -/
def soundWrite (b : Byte) (s : State) : State := s.setSt b

/-! ## Keyboard -/

/-- KeyPressed(v) at the parameter IS_PRESSED (R44; D19, log 18). -/
def keyPressed (s : State) (b : Byte) : Bool := params.isPressed s.ks b

/-- WaitKey(), asked once per step of the wait (R45, R161, R226). An update with a non-zero code completes the wait with
that code; with no update, a key held since before may complete it or not (D21, log 20). -/
def waitKey (held : Nibble) (inp : EnvInput) : Option Nibble :=
  match inp.setKey with
  | some k => if k = 0 then none else some k
  | none => if held ≠ 0 ∧ inp.heldKeyWakes = true then some held else none

/-- The key-arrival step of FX0A: V[x] <- zext_8(k) and run <- Running when a key arrives, nothing otherwise (R161). -/
def keyArrival (x : Nibble) (k : Option Nibble) (s : State) : State :=
  match k with
  | some k => (s.setV x (k.setWidth 8)).setRun .running
  | none => s

/-! ## The outside agents between two steps -/

/-- The decrements of both timers and the last update of the key state, in the gap before a step of the core
(R209, R221-R224; logs 21, 22, 39). -/
def envMove (inp : EnvInput) (s : State) : State :=
  (((s.setDt (timerDecay s.dt inp.delayTicks)).setSt (timerDecay s.st inp.soundTicks)).setKs
    (inp.setKey.getD s.ks)).drawn

/-! ## Output ports -/

/-- The framebuffer snapshot, read between steps (R47; D23, log 24). -/
def fbSnapshot (s : State) : Framebuffer := s.fb

/-- The error port: what a halted core surfaces to its caller (R47, R202). -/
def errorPort (s : State) : Option HaltRecord :=
  match s.run with
  | .halted record => some record
  | .running => none
  | .waitingKey _ => none

/-! ## Boot -/

/-- The ROM load port: none is the loader-level error for an image of more than MAX_ROM bytes, after which no step is
taken (R240, R241; log 28). -/
def loadRom (rom : List Byte) (s : State) : Option State :=
  if rom.length ≤ params.maxRom then some (s.setMem (s.mem.writeBytes params.programStart.toNat rom)) else none

/-- Construction followed by the ROM load (R240). -/
def boot (rom : List Byte) : Option State := loadRom rom State.reset

end Sys2Proof.Machine
end

