-- ==== Sys2Proof/Machine/Skip.lean ====
section
/-! DEFINITION. Conditional skips (spec/42_skip.md R120-R126). -/

namespace Sys2Proof.Machine

/-- SE Vx, byte (R121). -/
def execSeImm (x : Nibble) (kk : Byte) (s : State) : Result := .next (skipIf (decide (s.getV x = kk)) s)

/-- SNE Vx, byte (R122). -/
def execSneImm (x : Nibble) (kk : Byte) (s : State) : Result := .next (skipIf (decide (s.getV x ≠ kk)) s)

/-- SE Vx, Vy (R123). -/
def execSeReg (x y : Nibble) (s : State) : Result := .next (skipIf (decide (s.getV x = s.getV y)) s)

/-- SNE Vx, Vy (R124). -/
def execSneReg (x y : Nibble) (s : State) : Result := .next (skipIf (decide (s.getV x ≠ s.getV y)) s)

/-- SKP Vx (R125): one query of the key state, with no mask of V[X]. -/
def execSkp (x : Nibble) (s : State) : Result := .next (skipIf (keyPressed s (s.getV x)) s)

/-- SKNP Vx (R126). -/
def execSknp (x : Nibble) (s : State) : Result := .next (skipIf (!keyPressed s (s.getV x)) s)

end Sys2Proof.Machine
end

