-- ==== Sys2Proof/Machine/TimerKey.lean ====
section
/-! DEFINITION. Timer and keyboard instructions (spec/45_timer_keyboard.md R160-R163). -/

namespace Sys2Proof.Machine

/-- LD Vx, DT (R160): one indivisible read. -/
def execLdVxDt (x : Nibble) (s : State) : Result := .next (s.setV x (delayRead s))

/-- LD Vx, K (R161), its first step: the pause. The key-arrival step is `keyArrival`. -/
def execLdVxK (x : Nibble) (s : State) : Result := .next (s.setRun (.waitingKey x))

/-- LD DT, Vx (R162). -/
def execLdDtVx (x : Nibble) (s : State) : Result := .next (delayWrite (s.getV x) s)

/-- LD ST, Vx (R163). -/
def execLdStVx (x : Nibble) (s : State) : Result := .next (soundWrite (s.getV x) s)

end Sys2Proof.Machine
end

