-- ==== Sys2Proof/Machine/Cycle.lean ====
section
/-! DEFINITION. One step of the core with the moves of the outside agents before it as an argument
(spec/30_encoding.md R85, spec/45_timer_keyboard.md R161, spec/60_exceptions.md R204, R206, R209). -/

namespace Sys2Proof.Machine

/-- The record of InvalidOpcode (R201). -/
def invalidOpcode : Raise := { cause := .invalidOpcode, info := .none }

/-- Decode and execute the word `op`, pc already past it (R85). -/
def decodeExecute (op : Word) (s : State) : Result :=
  match decode op with
  | .error _ => raise invalidOpcode op s
  | .ok i => exec i s

/-- Fetch at pc, advance pc, decode, execute (R85). -/
def fetchExecute (s : State) : Result :=
  match fetch16 s s.pc.toNat with
  | .error r => raiseFetch r s
  | .ok op => decodeExecute op s.advance

/-- Step(s) (R85) after the outside agents' moves `inp`: a running core runs one instruction, a waiting core takes the
key-arrival step or stays, a halted core takes no step. -/
def stepWith (inp : EnvInput) (s : State) : Result :=
  match s.run with
  | .running => fetchExecute (envMove inp s)
  | .waitingKey x => .next (keyArrival x (waitKey s.ks inp) (envMove inp s))
  | .halted record => .fault (.coreHalted record)

/-- `s` with the word `op` where the next step fetches, and the core running: at pc, or at PROGRAM_START when pc is an
address that cannot be fetched. -/
def placeWord (s : State) (op : Word) : State :=
  let a : Word := if inRange s.pc.toNat params.instrBytes then s.pc else params.programStart
  ((s.setRun .running).setPc a).setMem (s.mem.writeBytes a.toNat (bytesOfWord op))

end Sys2Proof.Machine
end

