-- ==== Sys2Proof/Machine/Step.lean ====
section
/-! DEFINITION. One step of the machine: `stepWith` at the free moves of the outside agents (logs 20-22, 39). -/

namespace Sys2Proof.Machine

/-- One step (spec/00_scope.md R11, spec/30_encoding.md R85). -/
def step (s : State) : Host.Outcome State Fault Refusal := stepWith (Config.env s.draws) s

/-- `s` with the table word `w` placed where `step` fetches its next instruction (log 28). -/
def State.withFetchWord (s : State) (nbits w : Nat) : State := placeWord s (tableWord nbits w)

end Sys2Proof.Machine
end

