-- ==== Sys2Proof/Safety.lean ====
section
/-! DEFINITION. The terms in which claims speak: the parts of the state and frames over them, what each instruction may
write (spec/10_state.md R22, R24, R26, R30, spec/20_memory.md R50), when an instruction halts (spec/60_exceptions.md R203),
and the invariant of the machine. -/

namespace Sys2Proof.Machine

/-! ## Parts of the state and frames -/

/-- One piece of the state: a register, a byte of memory and a stack slot each count as one. -/
inductive StatePart where
  | reg (r : Nibble)
  | index
  | pc
  | sp
  | slot (k : Nat)
  | byte (a : Nat)
  | pixels
  | run
  | delay
  | sound
  | key
  | draws
  deriving DecidableEq, Repr

/-- The part holds in `t` what it held in `s`. -/
def StatePart.Same (s t : State) : StatePart → Prop
  | .reg r => t.getV r = s.getV r
  | .index => t.i = s.i
  | .pc => t.pc = s.pc
  | .sp => t.sp = s.sp
  | .slot k => t.stack[k]? = s.stack[k]?
  | .byte a => t.mem.read a = s.mem.read a
  | .pixels => t.fb = s.fb
  | .run => t.run = s.run
  | .delay => t.dt = s.dt
  | .sound => t.st = s.st
  | .key => t.ks = s.ks
  | .draws => t.draws = s.draws

/-- Every part outside `changed` is the same in `t` as in `s`. -/
def Frame (changed : StatePart → Prop) (s t : State) : Prop := ∀ p, ¬ changed p → p.Same s t

/-- The parts that the agents outside the core may change between two steps (R209), and the model's own counter. -/
def StatePart.outside (p : StatePart) : Prop := p = .delay ∨ p = .sound ∨ p = .key ∨ p = .draws

/-! ## What each instruction may write (R22, R24, R26, R30, R35, R50) -/

/-- The parts an instruction may write in the state `s`. `run` stands for the pause of FX0A and for the halt of an
instruction that can raise (R203). -/
def writesOf (s : State) (i : Instr) (p : StatePart) : Prop :=
  match i with
  | .cls => p = .pixels
  | .ret => p = .pc ∨ p = .sp ∨ p = .run
  | .sys _ | .jp _ | .jpV0 _ => p = .pc
  | .call _ => p = .pc ∨ p = .sp ∨ p = .slot s.sp.val ∨ p = .run
  | .seImm _ _ | .sneImm _ _ | .seReg _ _ | .sneReg _ _ | .skp _ | .sknp _ => p = .pc
  | .ldImm x _ | .addImm x _ | .ldReg x _ | .or x _ | .and x _ | .xor x _ | .ldVxDt x => p = .reg x
  | .addReg x _ | .sub x _ | .shr x _ | .subn x _ | .shl x _ => p = .reg x ∨ p = .reg regF
  | .rnd x _ => p = .reg x ∨ p = .draws
  | .drw _ _ _ => p = .pixels ∨ p = .reg regF ∨ p = .run
  | .ldVxK _ => p = .run
  | .ldDtVx _ => p = .delay
  | .ldStVx _ => p = .sound
  | .ldI _ | .addIVx _ | .ldFVx _ => p = .index
  | .ldBVx _ => (∃ a, p = .byte a ∧ s.i.toNat ≤ a ∧ a < s.i.toNat + 3) ∨ p = .run
  | .ldMemVx x => (∃ a, p = .byte a ∧ s.i.toNat ≤ a ∧ a < s.i.toNat + (x.toNat + 1)) ∨ p = .run
  | .ldVxMem x => (∃ r, p = .reg r ∧ r.toNat ≤ x.toNat) ∨ p = .run

/-! ## When an instruction halts the core (R203) -/

/-- The cause an instruction raises in the state `s`, if any: the table of R203. -/
def haltCauseOf (s : State) : Instr → Option Cause
  | .ret => if s.sp.val = 0 then some .stackUnderflow else none
  | .call _ => if s.sp.val = 16 then some .stackOverflow else none
  | .drw _ _ n => if 4096 < s.i.toNat + n.toNat then some .outOfBounds else none
  | .ldBVx _ => if 4096 < s.i.toNat + 3 then some .outOfBounds else none
  | .ldMemVx x | .ldVxMem x => if 4096 < s.i.toNat + x.toNat + 1 then some .outOfBounds else none
  | .cls | .sys _ | .jp _ | .jpV0 _ | .seImm _ _ | .sneImm _ _ | .seReg _ _ | .sneReg _ _ | .skp _ | .sknp _
  | .ldImm _ _ | .addImm _ _ | .ldReg _ _ | .or _ _ | .and _ _ | .xor _ _ | .addReg _ _ | .sub _ _ | .shr _ _
  | .subn _ _ | .shl _ _ | .rnd _ _ | .ldVxDt _ | .ldVxK _ | .ldDtVx _ | .ldStVx _ | .ldI _ | .addIVx _
  | .ldFVx _ => none

/-! ## Sprites (R101) -/

/-- A set bit of the `n`-row sprite at `a`, drawn at (x0, y0), lands on the pixel (px, py). -/
def SpriteCovers (m : Memory) (a n : Nat) (x0 y0 : Byte) (px py : Nat) : Prop :=
  ∃ r c, r < n ∧ c < 8 ∧ (x0.toNat + c) % 64 = px ∧ (y0.toNat + r) % 32 = py ∧ (m.read (a + r)).getLsbD (7 - c) = true

/-! ## Fairness of the timer agents (R231) -/

/-- A sequence of outside moves in which a decrement of each timer is offered again and again: a timer with a non-zero
value is eventually decremented (R231; log 30). -/
def FairTimers (env : Nat → EnvInput) : Prop :=
  ∀ n, (∃ m, n ≤ m ∧ 0 < (env m).delayTicks) ∧ (∃ m, n ≤ m ∧ 0 < (env m).soundTicks)

/-- The state after the first `n` outside moves of the sequence, in a time in which the core writes no timer. -/
def afterMoves (env : Nat → EnvInput) : Nat → State → State
  | 0, s => s
  | n + 1, s => envMove (env n) (afterMoves env n s)

/-! ## The invariant -/

/-- Every return address on the stack is one a CALL can have pushed: a fetch that succeeds is at 0x0FFE or below, so
the advanced pc is at most 0x1000 (R85, R113). -/
def State.ReturnsInMemory (s : State) : Prop :=
  ∀ (k : Nat) (h : k < 16), k < s.sp.val → s.stack[k].toNat ≤ 0x1000

/-- The invariant: memory is in its canonical form (log 35), pc is at most 0x10FE, the largest value R115 names, the
return addresses on the stack are at most 0x1000, and no halt has the unreachable cause InvalidRange (R55). -/
structure State.Inv (s : State) : Prop where
  mem : s.mem.wf = true
  pc : s.pc.toNat ≤ 0x10FE
  returns : s.ReturnsInMemory
  cause : ∀ record, s.run = .halted record → record.cause ≠ .invalidRange

end Sys2Proof.Machine
end

