-- ==== Sys2Proof/Certificates/Slice0/Obligations.lean ====
section
/-! DEFINITION. The statements for the provers. Each docstring names the rules of spec/ that the statement formalises; a
statement that rests on a decision of the spec (spec/92), on a passage the spec marks as derived, or on a log entry marked
DESIGN CHOICE, PRESUMED or DEDUCED says so. -/

open Sys2Proof Sys2Proof.Machine

/-! ## Encoding -/

/-- Words written out from the patterns of R75 and the classes of R76 decode to what they stand for. Rests on the readings
of rows 0 and 5 (90_conflicts C1, C2) and on D7 for row 9. -/
def Obligations.HandWrittenWordsDecode : Prop :=
  decode 0x00E0 = .ok .cls ∧ decode 0x00EE = .ok .ret ∧ decode 0x0345 = .ok (.sys 0x345) ∧
  decode 0x00F1 = .error .zeroRow ∧ decode 0x2210 = .ok (.call 0x210) ∧ decode 0x4311 = .ok (.sneImm 0x3 0x11) ∧
  decode 0x5001 = .ok (.seReg 0x0 0x0) ∧ decode 0x6A05 = .ok (.ldImm 0xA 0x05) ∧
  decode 0x8F24 = .ok (.addReg 0xF 0x2) ∧ decode 0x8128 = .error .eightRow ∧ decode 0x9120 = .ok (.sneReg 0x1 0x2) ∧
  decode 0x9121 = .error .nineRow ∧ decode 0xA300 = .ok (.ldI 0x300) ∧ decode 0xD125 = .ok (.drw 0x1 0x2 0x5) ∧
  decode 0xE29E = .ok (.skp 0x2) ∧ decode 0xE1FF = .error .eRow ∧ decode 0xF355 = .ok (.ldMemVx 0x3) ∧
  decode 0xF30A = .ok (.ldVxK 0x3) ∧ decode 0xF000 = .error .fRow

/-- Decoding the encoding of a well-formed instruction gives it back, with every operand at every value, as words and as
the two bytes in memory followed by anything (R70, R71, R74, R75; D7 for row 9). -/
def Obligations.EncodeThenDecode : Prop :=
  ∀ (i : Instr) (rest : List Byte), i.wellFormed = true →
    decode (encode i) = .ok i ∧ decodeBytes (encodeBytes i ++ rest) = .ok (i, rest)

/-- Every instruction the decoder answers is well-formed and encodes to the decoded word; only row 5 has a further word
for the same instruction, since its N is ignored (R82). That row 9 has no further word is decision D7 (log 6), and that no
other row ignores a field is a passage of R84 that the spec marks as derived. -/
def Obligations.DecodeThenEncode : Prop :=
  ∀ (op : Word) (i : Instr), decode op = .ok i →
    i.wellFormed = true ∧
    (encode i = op ∨ (op.toNat / 4096 = 5 ∧ (encode i).toNat = op.toNat / 16 * 16))

/-- The decoder rejects exactly the words of the table of R76. Rests on 90_conflicts C1 and on D7 for row 9. -/
def Obligations.InvalidWordsAreRejected : Prop :=
  ∀ op : Word,
    let w := op.toNat
    (∃ e, decode op = .error e) ↔
      (w < 0x100 ∧ w ≠ 0xE0 ∧ w ≠ 0xEE) ∨
      (w / 4096 = 8 ∧ w % 16 ∈ [0x8, 0x9, 0xA, 0xB, 0xC, 0xD, 0xF]) ∨
      (w / 4096 = 9 ∧ w % 16 ≠ 0) ∨
      (w / 4096 = 0xE ∧ w % 256 ≠ 0x9E ∧ w % 256 ≠ 0xA1) ∨
      (w / 4096 = 0xF ∧ w % 256 ∉ [0x07, 0x0A, 0x15, 0x18, 0x1E, 0x29, 0x33, 0x55, 0x65])

/-- With the parameter SNE_REG_ANY_N set, every word of row 9 is SNE Vx, Vy, and every other word decodes as without it
(R83; the parameter is decision D7, log 6). -/
def Obligations.SneRegAnyNParameter : Prop :=
  ∀ op : Word,
    (op.toNat / 4096 = 9 → decodeWith true op = .ok (.sneReg (fieldX op) (fieldY op))) ∧
    (op.toNat / 4096 ≠ 9 → decodeWith true op = decodeWith false op)

/-! ## The step -/

/-- Fetch16 is the big-endian word of the two bytes at a and a+1, and OutOfBounds when a is 0x0FFF or more (R56). -/
def Obligations.FetchIsBigEndian : Prop :=
  ∀ (s : State) (a : Nat),
    (a + 2 ≤ 4096 → ∃ op, fetch16 s a = .ok op ∧ op.toNat = 256 * (s.mem.read a).toNat + (s.mem.read (a + 1)).toNat) ∧
    (0x0FFF ≤ a → ∃ r, fetch16 s a = .error r ∧ r.cause = .outOfBounds)

/-- A step runs the decoded instruction: when the two bytes at pc decode to i, the step of a running core is exec of i in
the state after the outside agents' moves, with pc advanced by 2 (R85; that the outside moves come first is log 39). -/
def Obligations.StepRunsDecodedInstruction : Prop :=
  ∀ (s : State) (i : Instr), s.run = .running → s.pc.toNat + 2 ≤ 4096 →
    decodeBytes [s.mem.read s.pc.toNat, s.mem.read (s.pc.toNat + 1)] = .ok (i, []) →
    step s = exec i ((envMove (Config.env s.draws) s).setPc (s.pc + 2))

/-- A fetch at 0x0FFF or above halts the core with OutOfBounds, no opcode and pc unchanged (R59, R85, R205; the value of
pc is D16, log 15, and the record is D17, log 16). -/
def Obligations.FetchFaultHalts : Prop :=
  ∀ s : State, s.run = .running → 0x0FFF ≤ s.pc.toNat →
    ∃ t, step s = .next t ∧ t.run = .halted ⟨.outOfBounds, s.pc, none, .access s.pc.toNat 2⟩ ∧
      Frame (fun p => p = .run ∨ p.outside) s t

/-- A word the decoder rejects halts the core with InvalidOpcode, and only pc and run change in the core (R76, R85, R205;
pc = a + 2 is D16, log 15). -/
def Obligations.InvalidWordHalts : Prop :=
  ∀ (s : State) (op : Word) (e : Reject), s.run = .running → fetch16 s s.pc.toNat = .ok op → decode op = .error e →
    ∃ t, step s = .next t ∧ t.run = .halted ⟨.invalidOpcode, s.pc, some op, .none⟩ ∧ t.pc.toNat = s.pc.toNat + 2 ∧
      Frame (fun p => p = .run ∨ p = .pc ∨ p.outside) s t

/-- A halted core takes no step: the step surfaces the record and gives no next state (R202, R206; D32, log 17). -/
def Obligations.HaltedCoreTakesNoStep : Prop :=
  ∀ (s : State) (record : HaltRecord), s.run = .halted record →
    step s = .fault (.coreHalted record) ∧ errorPort s = some record

/-- While the core waits in FX0A a step either ends the wait with a key code 1..15 in the destination register, or leaves
the whole core as it is (R45, R161; which key arrives is D21, log 20, a free value). -/
def Obligations.WaitingStep : Prop :=
  ∀ (s : State) (x : Nibble), s.run = .waitingKey x →
    ∃ t, step s = .next t ∧
      ((t.run = .waitingKey x ∧ Frame StatePart.outside s t) ∨
       (t.run = .running ∧ 1 ≤ (t.getV x).toNat ∧ (t.getV x).toNat ≤ 15 ∧
        Frame (fun p => p = .reg x ∨ p = .run ∨ p.outside) s t))

/-- A press that begins during the wait is never missed: if the host's last update of the key state in the gap has a
non-zero code k, the step ends the wait with k; if the update says no key, or there is neither an update nor a held key,
the wait goes on (R226, R254). Rests on the model's one update per gap (log 39). -/
def Obligations.WaitNeverMissesAPress : Prop :=
  ∀ (inp : EnvInput) (s : State) (x k : Nibble), s.run = .waitingKey x →
    (inp.setKey = some k → k ≠ 0 →
      ∃ t, stepWith inp s = .next t ∧ t.run = .running ∧ (t.getV x).toNat = k.toNat ∧ t.ks = k) ∧
    (inp.setKey = some 0 ∨ (inp.setKey = none ∧ s.ks = 0) →
      ∃ t, stepWith inp s = .next t ∧ t.run = .waitingKey x)

/-- The agents outside the core change only the timers and the key state: a timer never increases, and the key state
changes only by an update (R209, R221-R224; logs 21, 22, 39). -/
def Obligations.OutsideMovesTouchOnlyDevices : Prop :=
  ∀ (inp : EnvInput) (s : State),
    Frame StatePart.outside s (envMove inp s) ∧
    (envMove inp s).dt.toNat ≤ s.dt.toNat ∧ (envMove inp s).st.toNat ≤ s.st.toNat ∧
    (inp.setKey = none → (envMove inp s).ks = s.ks) ∧ (∀ k, inp.setKey = some k → (envMove inp s).ks = k)

/-! ## Display -/

/-- CLS: exactly the word 0x00E0, and every pixel 0 and nothing else changed (R31, R100). -/
def Obligations.ClearScreen : Prop :=
  (∀ op : Word, decode op = .ok .cls ↔ op = 0x00E0) ∧
  ∀ s : State, ∃ t, exec .cls s = .next t ∧ (∀ px py, t.fb.pixel px py = false) ∧ Frame (· = .pixels) s t

/-- DRW with its N rows in memory: every pixel under a set sprite bit is inverted and every other kept, VF is 1 exactly
when a set pixel was under a set sprite bit, both coordinates being read before VF is written (R101, R102). Rests on the
bit order of D13 (log 12) and the empty range of D14 (log 13). -/
def Obligations.DrawInvertsCoveredPixels : Prop :=
  ∀ (s : State) (x y n : Nibble), s.i.toNat + n.toNat ≤ 4096 →
    let covers := SpriteCovers s.mem s.i.toNat n.toNat (s.getV x) (s.getV y)
    ∃ t, exec (.drw x y n) s = .next t ∧
      (∀ px py, px < 64 → py < 32 →
        (covers px py → t.fb.pixel px py = !s.fb.pixel px py) ∧
        (¬ covers px py → t.fb.pixel px py = s.fb.pixel px py)) ∧
      ((∃ px py, px < 64 ∧ py < 32 ∧ covers px py ∧ s.fb.pixel px py = true) → t.getV 0xF = 1) ∧
      ((¬ ∃ px py, px < 64 ∧ py < 32 ∧ covers px py ∧ s.fb.pixel px py = true) → t.getV 0xF = 0) ∧
      Frame (fun p => p = .pixels ∨ p = .reg 0xF) s t

/-- Drawing the same sprite twice at the same place restores the framebuffer (R101; the document's example E6). -/
def Obligations.DrawTwiceRestores : Prop :=
  ∀ (fb : Framebuffer) (x0 y0 : Byte) (rows : List Byte),
    (fbDraw (fbDraw fb x0 y0 rows).1 x0 y0 rows).1 = fb

/-- A start coordinate acts as its value mod 64 for x and mod 32 for y (R101, a passage the spec marks as derived). -/
def Obligations.DrawCoordinatesWrap : Prop :=
  ∀ (fb : Framebuffer) (x0 y0 x1 y1 : Byte) (rows : List Byte), x0.toNat % 64 = x1.toNat % 64 →
    y0.toNat % 32 = y1.toNat % 32 → fbDraw fb x0 y0 rows = fbDraw fb x1 y1 rows

/-! ## Control transfer -/

/-- SYS, JP and JP V0 set pc to their absolute target, with no 12-bit mask on the sum of JP V0, and change nothing else;
each has the words of its pattern, the other words below 0x100 but two are invalid, and a target of 0x0FFF or more faults
at the fetch (R111, R112, R114). -/
def Obligations.JumpsSetPc : Prop :=
  (∀ w, w < 0x100 → w ≠ 0xE0 → w ≠ 0xEE → ∃ e, decode (BitVec.ofNat 16 w) = .error e) ∧
  (∀ s : State, 0x0FFF ≤ s.pc.toNat → ∃ r, fetch16 s s.pc.toNat = .error r ∧ r.cause = .outOfBounds) ∧
  (∀ nnn : Addr, 0x100 ≤ nnn.toNat → decode (BitVec.ofNat 16 nnn.toNat) = .ok (.sys nnn)) ∧
  (∀ nnn : Addr, decode (BitVec.ofNat 16 (0x1000 + nnn.toNat)) = .ok (.jp nnn)) ∧
  (∀ nnn : Addr, decode (BitVec.ofNat 16 (0xB000 + nnn.toNat)) = .ok (.jpV0 nnn)) ∧
  ∀ (s : State) (nnn : Addr),
    (0x100 ≤ nnn.toNat → ∃ t, exec (.sys nnn) s = .next t ∧ t.pc.toNat = nnn.toNat ∧ Frame (· = .pc) s t) ∧
    (∃ t, exec (.jp nnn) s = .next t ∧ t.pc.toNat = nnn.toNat ∧ Frame (· = .pc) s t) ∧
    (∃ t, exec (.jpV0 nnn) s = .next t ∧ t.pc.toNat = nnn.toNat + (s.getV 0).toNat ∧ Frame (· = .pc) s t)

/-- CALL below capacity pushes the advanced pc and jumps (R113; the slot it fills is D28, log 2). -/
def Obligations.CallPushesReturnAddress : Prop :=
  ∀ (s : State) (nnn : Addr), s.sp.val < 16 →
    ∃ t, exec (.call nnn) s = .next t ∧ t.pc.toNat = nnn.toNat ∧ t.sp.val = s.sp.val + 1 ∧
      t.stack[s.sp.val]? = some s.pc ∧ Frame (fun p => p = .pc ∨ p = .sp ∨ p = .slot s.sp.val) s t

/-- RET of a non-empty stack jumps to the last entry and pops it; no slot is cleared (R28, R110; the slot is D28, log 2). -/
def Obligations.ReturnPopsAddress : Prop :=
  ∀ s : State, 0 < s.sp.val →
    ∃ t, exec .ret s = .next t ∧ some t.pc = s.stack[s.sp.val - 1]? ∧ t.sp.val + 1 = s.sp.val ∧
      Frame (fun p => p = .pc ∨ p = .sp) s t

/-- CALL at capacity and RET of an empty stack halt the core with their cause, and change only run (R27, R28, R110, R113,
R203, R205; pc is left as D16 says, log 15, and the record is D17, log 16). -/
def Obligations.StackFaultsHalt : Prop :=
  (∀ (s : State) (nnn : Addr), s.sp.val = 16 →
    ∃ t, exec (.call nnn) s = .next t ∧
      t.run = .halted ⟨.stackOverflow, s.pc - 2, some (encode (.call nnn)), .stack 16⟩ ∧ Frame (· = .run) s t) ∧
  (∀ s : State, s.sp.val = 0 →
    ∃ t, exec .ret s = .next t ∧
      t.run = .halted ⟨.stackUnderflow, s.pc - 2, some 0x00EE, .stack 0⟩ ∧ Frame (· = .run) s t)

/-- RET resumes after the CALL: whatever a subroutine does that leaves the stack as the CALL left it, its RET sets pc to
the address the CALL pushed and SP to what it was (R110, a passage the spec marks as derived). -/
def Obligations.ReturnResumesAfterCall : Prop :=
  ∀ (s : State) (nnn : Addr), s.sp.val < 16 →
    ∃ t, exec (.call nnn) s = .next t ∧
      ∀ u : State, u.sp = t.sp → u.stack = t.stack → ∃ w, exec .ret u = .next w ∧ w.pc = s.pc ∧ w.sp = s.sp

/-- From an empty stack exactly the lists of at most 16 pushes succeed; the 17th push raises StackOverflow (R27). -/
def Obligations.SixteenPushesFit : Prop :=
  (∀ (s : State) (w : Word), (s.sp.val = 16 → push s w = .error ⟨.stackOverflow, .stack 16⟩) ∧
    (s.sp.val < 16 → ∃ t, push s w = .ok t ∧ t.stack[s.sp.val]? = some w ∧ t.sp.val = s.sp.val + 1)) ∧
  ∀ (s : State) (ws : List Word), s.sp.val = 0 → ((∃ t, ws.foldlM push s = .ok t) ↔ ws.length ≤ 16)

/-! ## Skips -/

/-- SE and SNE with an immediate and SE of two registers: pc moves by 2 more exactly when the condition holds, and nothing
else changes; each has the words of its pattern, the N of row 5 being free (R120-R123). -/
def Obligations.CompareSkips : Prop :=
  (∀ (x : Nibble) (kk : Byte), decode (BitVec.ofNat 16 (0x3000 + x.toNat * 256 + kk.toNat)) = .ok (.seImm x kk) ∧
    decode (BitVec.ofNat 16 (0x4000 + x.toNat * 256 + kk.toNat)) = .ok (.sneImm x kk)) ∧
  (∀ x y n : Nibble, decode (BitVec.ofNat 16 (0x5000 + x.toNat * 256 + y.toNat * 16 + n.toNat)) = .ok (.seReg x y)) ∧
  ∀ (s : State) (x y : Nibble) (kk : Byte),
    (∃ t, exec (.seImm x kk) s = .next t ∧ t.pc = (if s.getV x = kk then s.pc + 2 else s.pc) ∧ Frame (· = .pc) s t) ∧
    (∃ t, exec (.sneImm x kk) s = .next t ∧ t.pc = (if s.getV x = kk then s.pc else s.pc + 2) ∧ Frame (· = .pc) s t) ∧
    (∃ t, exec (.seReg x y) s = .next t ∧ t.pc = (if s.getV x = s.getV y then s.pc + 2 else s.pc) ∧
      Frame (· = .pc) s t)

/-- SNE of two registers (R124). The row accepts only N = 0, decision D7 (log 6). -/
def Obligations.SneRegSkips : Prop :=
  ∀ (s : State) (x y : Nibble),
    ∃ t, exec (.sneReg x y) s = .next t ∧ t.pc = (if s.getV x = s.getV y then s.pc else s.pc + 2) ∧ Frame (· = .pc) s t

/-- SKP and SKNP take opposite branches on one query of the key state; a key counts as pressed exactly when its code is
the key state's and not 0, so V[X] = 0 and V[X] > 0xF never do (R125, R126; IS_PRESSED is decision D19, log 18). -/
def Obligations.KeySkipsAreOpposite : Prop :=
  ∀ (s : State) (x : Nibble),
    let pressed := s.ks ≠ 0 ∧ (s.getV x).toNat = s.ks.toNat
    ∃ t u, exec (.skp x) s = .next t ∧ exec (.sknp x) s = .next u ∧
      (pressed → t.pc = s.pc + 2 ∧ u.pc = s.pc) ∧ (¬ pressed → t.pc = s.pc ∧ u.pc = s.pc + 2) ∧
      Frame (· = .pc) s t ∧ Frame (· = .pc) s u

/-! ## Register ALU -/

/-- LD immediate, ADD immediate (wrapping, no flag) and LD register: the destination alone changes, VF too only as the
destination; each has the words of its pattern (R131, R132, R133). -/
def Obligations.LoadsAndAddImmediate : Prop :=
  (∀ (x : Nibble) (kk : Byte), decode (BitVec.ofNat 16 (0x6000 + x.toNat * 256 + kk.toNat)) = .ok (.ldImm x kk) ∧
    decode (BitVec.ofNat 16 (0x7000 + x.toNat * 256 + kk.toNat)) = .ok (.addImm x kk)) ∧
  (∀ x y : Nibble, decode (BitVec.ofNat 16 (0x8000 + x.toNat * 256 + y.toNat * 16)) = .ok (.ldReg x y)) ∧
  ∀ (s : State) (x y : Nibble) (kk : Byte),
    (∃ t, exec (.ldImm x kk) s = .next t ∧ t.getV x = kk ∧ Frame (· = .reg x) s t) ∧
    (∃ t, exec (.addImm x kk) s = .next t ∧ (t.getV x).toNat = ((s.getV x).toNat + kk.toNat) % 256 ∧
      Frame (· = .reg x) s t) ∧
    (∃ t, exec (.ldReg x y) s = .next t ∧ t.getV x = s.getV y ∧ Frame (· = .reg x) s t)

/-- OR, AND and XOR, bit by bit; VF changes only as the destination (R134-R136; decision D10, log 9). -/
def Obligations.LogicLeavesFlag : Prop :=
  ∀ (s : State) (x y : Nibble),
    (∃ t, exec (.or x y) s = .next t ∧
      (∀ k, (t.getV x).getLsbD k = ((s.getV x).getLsbD k || (s.getV y).getLsbD k)) ∧ Frame (· = .reg x) s t) ∧
    (∃ t, exec (.and x y) s = .next t ∧
      (∀ k, (t.getV x).getLsbD k = ((s.getV x).getLsbD k && (s.getV y).getLsbD k)) ∧ Frame (· = .reg x) s t) ∧
    (∃ t, exec (.xor x y) s = .next t ∧
      (∀ k, (t.getV x).getLsbD k = ((s.getV x).getLsbD k ^^ (s.getV y).getLsbD k)) ∧ Frame (· = .reg x) s t)

/-- ADD, SUB and SUBN of two registers: the wrapped result in V[X] unless X = F, the carry or no-borrow flag in VF for
every X and Y (R137, R138, R140). Rests on D8 (VF keeps the flag, log 7) and D9 (sources first, log 8). -/
def Obligations.ArithmeticSetsFlag : Prop :=
  ∀ (s : State) (x y : Nibble),
    let a := (s.getV x).toNat
    let b := (s.getV y).toNat
    (∃ t, exec (.addReg x y) s = .next t ∧ (x ≠ 0xF → (t.getV x).toNat = (a + b) % 256) ∧
      (t.getV 0xF).toNat = (if 255 < a + b then 1 else 0) ∧ Frame (fun p => p = .reg x ∨ p = .reg 0xF) s t) ∧
    (∃ t, exec (.sub x y) s = .next t ∧ (x ≠ 0xF → (t.getV x).toNat = (a + 256 - b) % 256) ∧
      (t.getV 0xF).toNat = (if b ≤ a then 1 else 0) ∧ Frame (fun p => p = .reg x ∨ p = .reg 0xF) s t) ∧
    (∃ t, exec (.subn x y) s = .next t ∧ (x ≠ 0xF → (t.getV x).toNat = (b + 256 - a) % 256) ∧
      (t.getV 0xF).toNat = (if a ≤ b then 1 else 0) ∧ Frame (fun p => p = .reg x ∨ p = .reg 0xF) s t)

/-- SHR and SHL shift V[X] by one and put the bit shifted out of the old V[X] in VF; V[Y] is not read (R139, R141, R84).
Rests on D8 (log 7) for X = F and on D9 (log 8). -/
def Obligations.ShiftsSetFlag : Prop :=
  ∀ (s : State) (x y : Nibble),
    let a := (s.getV x).toNat
    (∃ t, exec (.shr x y) s = .next t ∧ (x ≠ 0xF → (t.getV x).toNat = a / 2) ∧ (t.getV 0xF).toNat = a % 2 ∧
      Frame (fun p => p = .reg x ∨ p = .reg 0xF) s t) ∧
    (∃ t, exec (.shl x y) s = .next t ∧ (x ≠ 0xF → (t.getV x).toNat = a * 2 % 256) ∧ (t.getV 0xF).toNat = a / 128 ∧
      Frame (fun p => p = .reg x ∨ p = .reg 0xF) s t)

/-- WriteRF at both values of VF_WRITE_ORDER: the same state for X other than F; for X = F the flag or the result remains
(R130; the default is D8, log 7). -/
def Obligations.WriteOrdersDifferOnlyAtF : Prop :=
  ∀ (s : State) (x : Nibble) (r : Byte) (f : Bool),
    (x ≠ 0xF → writeRFWith .flagLast x r f s = writeRFWith .resultLast x r f s) ∧
    (writeRFWith .flagLast 0xF r f s).getV 0xF = (if f then 1 else 0) ∧
    (writeRFWith .resultLast 0xF r f s).getV 0xF = r

/-- RND: the byte drawn, whatever it is, masked by KK; one draw is used up (R46, R142; the draw is D20, log 19, a free
value, and the counter of draws is the model's own, log 29). -/
def Obligations.RandomByteIsMasked : Prop :=
  ∀ (s : State) (x : Nibble) (kk : Byte),
    ∃ t, exec (.rnd x kk) s = .next t ∧
      (∀ k, (t.getV x).getLsbD k = ((Config.randomByte s.draws).getLsbD k && kk.getLsbD k)) ∧
      t.draws = s.draws + 1 ∧ Frame (fun p => p = .reg x ∨ p = .draws) s t

/-! ## Index register and memory -/

/-- LD I and LD F: I alone changes, to NNN and to V[X] * 5 exactly; each has the words of its pattern (R151, R153). -/
def Obligations.IndexLoads : Prop :=
  (∀ nnn : Addr, decode (BitVec.ofNat 16 (0xA000 + nnn.toNat)) = .ok (.ldI nnn)) ∧
  (∀ x : Nibble, decode (BitVec.ofNat 16 (0xF029 + x.toNat * 256)) = .ok (.ldFVx x)) ∧
  ∀ (s : State) (nnn : Addr) (x : Nibble),
    (∃ t, exec (.ldI nnn) s = .next t ∧ t.i.toNat = nnn.toNat ∧ Frame (· = .index) s t) ∧
    (∃ t, exec (.ldFVx x) s = .next t ∧ t.i.toNat = (s.getV x).toNat * 5 ∧ Frame (· = .index) s t)

/-- ADD I, Vx wraps at 16 bits and sets no flag (R152; decision D11, log 10). -/
def Obligations.IndexAddWraps : Prop :=
  ∀ (s : State) (x : Nibble),
    ∃ t, exec (.addIVx x) s = .next t ∧ t.i.toNat = (s.i.toNat + (s.getV x).toNat) % 65536 ∧ Frame (· = .index) s t

/-- LD B stores three decimal digits, hundreds first, whose number is V[X]; every other byte, I and every register are
kept (R150, R154; I unchanged is D12, log 11). -/
def Obligations.BcdStoresDigits : Prop :=
  ∀ (s : State) (x : Nibble), s.mem.wf = true → s.i.toNat + 3 ≤ 4096 →
    ∃ t h d o, exec (.ldBVx x) s = .next t ∧
      t.mem.read s.i.toNat = h ∧ t.mem.read (s.i.toNat + 1) = d ∧ t.mem.read (s.i.toNat + 2) = o ∧
      h.toNat ≤ 2 ∧ d.toNat ≤ 9 ∧ o.toNat ≤ 9 ∧ (s.getV x).toNat = 100 * h.toNat + 10 * d.toNat + o.toNat ∧
      Frame (fun p => ∃ a, p = .byte a ∧ s.i.toNat ≤ a ∧ a < s.i.toNat + 3) s t

/-- LD [I], Vx stores V0..VX at I, I+1, ..., I+X and keeps every other byte, I and every register (R150, R155; I
unchanged is D12, log 11). -/
def Obligations.BlockStore : Prop :=
  ∀ (s : State) (x : Nibble), s.mem.wf = true → s.i.toNat + (x.toNat + 1) ≤ 4096 →
    ∃ t, exec (.ldMemVx x) s = .next t ∧
      (∀ r : Nibble, r.toNat ≤ x.toNat → t.mem.read (s.i.toNat + r.toNat) = s.getV r) ∧
      Frame (fun p => ∃ a, p = .byte a ∧ s.i.toNat ≤ a ∧ a < s.i.toNat + (x.toNat + 1)) s t

/-- LD Vx, [I] loads V0..VX from I, I+1, ..., I+X and keeps the registers above X, I and memory (R150, R156; I unchanged
is D12, log 11). -/
def Obligations.BlockLoad : Prop :=
  ∀ (s : State) (x : Nibble), s.i.toNat + (x.toNat + 1) ≤ 4096 →
    ∃ t, exec (.ldVxMem x) s = .next t ∧
      (∀ r : Nibble, r.toNat ≤ x.toNat → t.getV r = s.mem.read (s.i.toNat + r.toNat)) ∧
      Frame (fun p => ∃ r, p = .reg r ∧ r.toNat ≤ x.toNat) s t

/-- A block store followed by a block load of the same registers at the same I gives V0..VX back, whatever happened to
the registers between (the document's example E1; R64, R155, R156; D12, log 11). -/
def Obligations.BlockStoreThenLoad : Prop :=
  ∀ (s : State) (x : Nibble), s.mem.wf = true → s.i.toNat + (x.toNat + 1) ≤ 4096 →
    ∃ t, exec (.ldMemVx x) s = .next t ∧
      ∀ u : State, u.mem = t.mem → u.i = t.i →
        ∃ w, exec (.ldVxMem x) u = .next w ∧ ∀ r : Nibble, r.toNat ≤ x.toNat → w.getV r = s.getV r

/-- A span at I that leaves memory halts DRW, LD B, LD [I] and LD Vx, [I] with OutOfBounds and the address and length of
the access, and changes only run: no byte, pixel or register is written (R24, R59, R203, R205; D14, D15, D16 and D17,
logs 13-16). -/
def Obligations.SpanFaultsHalt : Prop :=
  ∀ (s : State) (x y n : Nibble),
    (4096 < s.i.toNat + n.toNat → ∃ t, exec (.drw x y n) s = .next t ∧ Frame (· = .run) s t ∧
      t.run = .halted ⟨.outOfBounds, s.pc - 2, some (encode (.drw x y n)), .access s.i.toNat n.toNat⟩) ∧
    (4096 < s.i.toNat + 3 → ∃ t, exec (.ldBVx x) s = .next t ∧ Frame (· = .run) s t ∧
      t.run = .halted ⟨.outOfBounds, s.pc - 2, some (encode (.ldBVx x)), .access s.i.toNat 3⟩) ∧
    (4096 < s.i.toNat + (x.toNat + 1) → ∃ t, exec (.ldMemVx x) s = .next t ∧ Frame (· = .run) s t ∧
      t.run = .halted ⟨.outOfBounds, s.pc - 2, some (encode (.ldMemVx x)), .access s.i.toNat (x.toNat + 1)⟩) ∧
    (4096 < s.i.toNat + (x.toNat + 1) → ∃ t, exec (.ldVxMem x) s = .next t ∧ Frame (· = .run) s t ∧
      t.run = .halted ⟨.outOfBounds, s.pc - 2, some (encode (.ldVxMem x)), .access s.i.toNat (x.toNat + 1)⟩)

/-- MemRead answers the n bytes in ascending order exactly when a + n is at most 4096, and raises OutOfBounds with a and n
otherwise (R52, R53). The bound for n = 0 is decision D14 (log 13). -/
def Obligations.MemReadChecksSpan : Prop :=
  ∀ (s : State) (a n : Nat),
    (a + n ≤ 4096 → ∃ bytes, memRead s a n = .ok bytes ∧ bytes.length = n ∧
      ∀ k, k < n → bytes[k]? = some (s.mem.read (a + k))) ∧
    (4096 < a + n → memRead s a n = .error ⟨.outOfBounds, .access a n⟩)

/-- MemWrite in range puts each byte at its ascending address and keeps every other byte, and the canonical form; out of
range it raises OutOfBounds and there is no new state (R52, R54, R64; decision D15, log 14; the form is log 35). The bound
for the empty list is decision D14 (log 13). -/
def Obligations.MemWriteStoresSpan : Prop :=
  ∀ (s : State) (a : Nat) (bytes : List Byte), s.mem.wf = true →
    (a + bytes.length ≤ 4096 → ∃ t, memWrite s a bytes = .ok t ∧ t.mem.wf = true ∧
      (∀ k, k < bytes.length → some (t.mem.read (a + k)) = bytes[k]?) ∧
      Frame (fun p => ∃ b, p = .byte b ∧ a ≤ b ∧ b < a + bytes.length) s t) ∧
    (4096 < a + bytes.length → memWrite s a bytes = .error ⟨.outOfBounds, .access a bytes.length⟩)

/-- A store is seen by the very next fetch: after LD [I], Vx a fetch inside the stored span reads the registers just
stored (R62; decision D25, log 26). -/
def Obligations.StoreSeenByFetch : Prop :=
  ∀ (s : State) (x r q : Nibble), s.mem.wf = true → s.i.toNat + (x.toNat + 1) ≤ 4096 → q.toNat = r.toNat + 1 →
    q.toNat ≤ x.toNat →
    ∃ t, exec (.ldMemVx x) s = .next t ∧
      fetch16 t (s.i.toNat + r.toNat) = .ok (BitVec.ofNat 16 (256 * (s.getV r).toNat + (s.getV q).toNat))

/-! ## Timers and keyboard -/

/-- LD DT and LD ST write V[X] to the delay and the sound timer and change nothing else; a timer written with 0 stays at
0 whatever decrements are offered; each has the words of its pattern (R162, R163; the decrements are the outside moves of
logs 21 and 39). -/
def Obligations.TimerWrites : Prop :=
  (∀ x : Nibble, decode (BitVec.ofNat 16 (0xF015 + x.toNat * 256)) = .ok (.ldDtVx x) ∧
    decode (BitVec.ofNat 16 (0xF018 + x.toNat * 256)) = .ok (.ldStVx x)) ∧
  ∀ (s : State) (x : Nibble),
    (∃ t, exec (.ldDtVx x) s = .next t ∧ t.dt = s.getV x ∧ Frame (· = .delay) s t ∧
      (s.getV x = 0 → ∀ inp, (envMove inp t).dt = 0)) ∧
    (∃ t, exec (.ldStVx x) s = .next t ∧ t.st = s.getV x ∧ Frame (· = .sound) s t ∧
      (s.getV x = 0 → ∀ inp, (envMove inp t).st = 0))

/-- LD Vx, DT reads the delay timer and changes only V[X] (R41, R160). -/
def Obligations.DelayTimerRead : Prop :=
  ∀ (s : State) (x : Nibble), ∃ t, exec (.ldVxDt x) s = .next t ∧ t.getV x = s.dt ∧ Frame (· = .reg x) s t

/-- A read of the delay timer after a write of w, with k decrements offered in between, gives max(w - k, 0), for every k
(R222, a passage the spec marks as derived; R253, D22, log 21). -/
def Obligations.DelayReadAfterWrite : Prop :=
  ∀ (s : State) (x y : Nibble) (inp : EnvInput),
    ∃ t u, exec (.ldDtVx x) s = .next t ∧ exec (.ldVxDt y) (envMove inp t) = .next u ∧
      (u.getV y).toNat = (s.getV x).toNat - inp.delayTicks

/-- No instruction reads the sound timer: whatever it holds, every other part of the next state is the same (R163; the
halt record, which is log 16's, is among those parts). -/
def Obligations.SoundTimerIsNeverRead : Prop :=
  ∀ (i : Instr) (s : State) (b : Byte),
    ∃ t u, exec i s = .next t ∧ exec i (s.setSt b) = .next u ∧ Frame (· = .sound) t u

/-- Under the fairness of the timer agents each timer runs down to 0 and stays there while no instruction writes it
(R221, R231; the outside moves are those of logs 21 and 39, and fairness is a hypothesis only, log 30). -/
def Obligations.TimersRunOut : Prop :=
  ∀ (env : Nat → EnvInput) (s : State), FairTimers env →
    ∃ n, ∀ m, n ≤ m → (afterMoves env m s).dt = 0 ∧ (afterMoves env m s).st = 0

/-- LD Vx, K pauses the core with its destination register and changes nothing else (R161). -/
def Obligations.KeyWaitPauses : Prop :=
  ∀ (s : State) (x : Nibble), ∃ t, exec (.ldVxK x) s = .next t ∧ t.run = .waitingKey x ∧ Frame (· = .run) s t

/-! ## Whole-machine rules -/

/-- Every instruction answers a next state in every state: no meaning ends in a fault or a refusal (R11, R200, and the
table of R203, which the spec marks as derived; that a halt is a next state is log 17). -/
def Obligations.EveryInstructionAnswers : Prop := ∀ (i : Instr) (s : State), ∃ t, exec i s = .next t

/-- What each instruction may write: the table of R22 for the registers, and for the other parts R24 (I), R26 (the
stack), R30 (the framebuffer), R35 (the run state) and R50 (memory); nothing else changes. Rests on the derived table of
R22 and on D12 (log 11). -/
def Obligations.InstructionsWriteOnlyTheirParts : Prop :=
  ∀ (i : Instr) (s t : State), exec i s = .next t → Frame (writesOf s i) s t

/-- An instruction halts a running core exactly when the table of R203 says so, with its cause; a halt changes only run
and records the address of the instruction and its opcode (R202, R203, R205). The table is one the spec marks as derived;
the bound of DXY0 in it is decision D14 (log 13), that a halt changes only run is D15 and D16 (logs 14 and 15), and the
record is D17 (log 16). -/
def Obligations.HaltsExactlyAsTabled : Prop :=
  ∀ (i : Instr) (s t : State), s.run = .running → exec i s = .next t →
    match haltCauseOf s i with
    | some c => Frame (· = .run) s t ∧
        ∃ record, t.run = .halted record ∧ record.cause = c ∧ record.faultPc = s.pc - 2 ∧ record.opcode = some (encode i)
    | none => ∀ record, t.run ≠ .halted record

/-- Faults are precise: a step that halts the core leaves everything but run, pc and the devices as it was, and records
the address and the word of the faulting instruction (no word for a fetch fault). Rests on D15, D16 and D17 (logs 14-16;
R85, R202, R205). -/
def Obligations.FaultsArePrecise : Prop :=
  ∀ (s t : State) (record : HaltRecord), s.run = .running → step s = .next t → t.run = .halted record →
    record.faultPc = s.pc ∧ Frame (fun p => p = .run ∨ p = .pc ∨ p.outside) s t ∧
    (s.pc.toNat + 2 ≤ 4096 → t.pc.toNat = s.pc.toNat + 2 ∧
      record.opcode = some (wordOfBytes (s.mem.read s.pc.toNat) (s.mem.read (s.pc.toNat + 1)))) ∧
    (4096 < s.pc.toNat + 2 → t.pc = s.pc ∧ record.opcode = none ∧ record.cause = .outOfBounds)

/-! ## Reset, boot and the invariant -/

/-- What reset leaves (R38). Only pc = 0x200 and the place of the font are the source's; the other values are the spec's
decisions D1-D6, D33 and D34 (logs 1-5, 22, 23), and the font bytes are D6 (log 5). -/
def Obligations.ResetValues : Prop :=
  State.reset.pc = 0x200 ∧ (∀ r, State.reset.getV r = 0) ∧ State.reset.i = 0 ∧ State.reset.sp = 0 ∧
  (∀ k, k < 16 → State.reset.stack[k]? = some 0) ∧ (∀ px py, State.reset.fb.pixel px py = false) ∧
  State.reset.run = .running ∧ State.reset.dt = 0 ∧ State.reset.st = 0 ∧ State.reset.ks = 0 ∧
  (∀ a, a < 80 → some (State.reset.mem.read a) = fontBytes[a]?) ∧
  (∀ a, 80 ≤ a → a < 4096 → State.reset.mem.read a = 0)

/-- The boot: an image of at most 0xE00 bytes is copied verbatim to 0x200 and nothing else changes, and the machine meets
its invariant; a longer image is refused (R240, R241; the empty image is a passage the spec marks as derived, log 28). -/
def Obligations.RomLoad : Prop :=
  ∀ rom : List Byte,
    (rom.length ≤ 0xE00 → ∃ s, boot rom = some s ∧ s.Inv ∧
      (∀ k, k < rom.length → some (s.mem.read (0x200 + k)) = rom[k]?) ∧
      Frame (fun p => ∃ a, p = .byte a ∧ 0x200 ≤ a ∧ a < 0x200 + rom.length) State.reset s) ∧
    (0xE00 < rom.length → boot rom = none)

/-- Every step keeps the invariant: memory stays canonical (log 35), pc stays at most 0x10FE and the return addresses at
most 0x1000, so that the 16-bit pc never wraps (R115, a rule the spec marks as derived), and no halt has the cause
InvalidRange (R55). -/
def Obligations.StepKeepsInvariant : Prop := ∀ s t : State, s.Inv → step s = .next t → t.Inv

/-- The state after reset meets the invariant. -/
def Obligations.ResetMeetsInvariant : Prop := State.reset.Inv
end

