-- ==== Sys2Proof/Laws/State.lean ====
section
/-! SUPPORT. One lemma per field per update of the state, and what a read of a register gives after each update. -/

namespace Sys2Proof.Machine

/-! ## The parameters, once -/

theorem params_memSize : params.memSize = 4096 := rfl
@[simp] theorem params_numV : params.numV = 16 := rfl
@[simp] theorem params_vWidth : params.vWidth = 8 := rfl
@[simp] theorem params_iWidth : params.iWidth = 16 := rfl
@[simp] theorem params_pcWidth : params.pcWidth = 16 := rfl
@[simp] theorem params_stackDepth : params.stackDepth = 16 := rfl
@[simp] theorem params_stackSlotWidth : params.stackSlotWidth = 16 := rfl
@[simp] theorem params_spMax : params.spMax = 16 := rfl
@[simp] theorem params_fbWidth : params.fbWidth = 64 := rfl
@[simp] theorem params_fbHeight : params.fbHeight = 32 := rfl
@[simp] theorem params_fontSize : params.fontSize = 80 := rfl
@[simp] theorem params_rng : params.rng = Config.randomByte := rfl
@[simp] theorem params_fontBase : params.fontBase = 0 := rfl
@[simp] theorem params_fontGlyphBytes : params.fontGlyphBytes = 5 := rfl
@[simp] theorem params_programStart : params.programStart = 0x200#16 := rfl
@[simp] theorem params_maxRom : params.maxRom = 0xE00 := rfl
@[simp] theorem params_instrBytes : params.instrBytes = 2 := rfl
@[simp] theorem params_initFill : params.initFill = 0#8 := rfl
@[simp] theorem params_sneRegAnyN : params.sneRegAnyN = false := rfl
@[simp] theorem params_vfWriteOrder : params.vfWriteOrder = .flagLast := rfl
@[simp] theorem params_isPressed : params.isPressed = isPressedDefault := rfl

/-! ## The ranges of the registers, as numerals -/

theorem State.getV_lt (s : State) (x : Nibble) : (s.getV x).toNat < 256 := (s.getV x).isLt
theorem State.i_lt (s : State) : s.i.toNat < 65536 := s.i.isLt
theorem State.pc_lt (s : State) : s.pc.toNat < 65536 := s.pc.isLt
/-- SP_RANGE (R26). -/
theorem State.sp_le (s : State) : s.sp.val ≤ 16 := Nat.le_of_lt_succ s.sp.isLt

/-! ## Fields after updates -/

@[simp] theorem State.setV_v (s : State) (x : Nibble) (b : Byte) : (s.setV x b).v = s.v.set x.toNat b x.isLt := rfl
@[simp] theorem State.setV_i (s : State) (x : Nibble) (b : Byte) : (s.setV x b).i = s.i := rfl
@[simp] theorem State.setV_pc (s : State) (x : Nibble) (b : Byte) : (s.setV x b).pc = s.pc := rfl
@[simp] theorem State.setV_sp (s : State) (x : Nibble) (b : Byte) : (s.setV x b).sp = s.sp := rfl
@[simp] theorem State.setV_stack (s : State) (x : Nibble) (b : Byte) : (s.setV x b).stack = s.stack := rfl
@[simp] theorem State.setV_mem (s : State) (x : Nibble) (b : Byte) : (s.setV x b).mem = s.mem := rfl
@[simp] theorem State.setV_fb (s : State) (x : Nibble) (b : Byte) : (s.setV x b).fb = s.fb := rfl
@[simp] theorem State.setV_run (s : State) (x : Nibble) (b : Byte) : (s.setV x b).run = s.run := rfl
@[simp] theorem State.setV_dt (s : State) (x : Nibble) (b : Byte) : (s.setV x b).dt = s.dt := rfl
@[simp] theorem State.setV_st (s : State) (x : Nibble) (b : Byte) : (s.setV x b).st = s.st := rfl
@[simp] theorem State.setV_ks (s : State) (x : Nibble) (b : Byte) : (s.setV x b).ks = s.ks := rfl
@[simp] theorem State.setV_draws (s : State) (x : Nibble) (b : Byte) : (s.setV x b).draws = s.draws := rfl

@[simp] theorem State.setI_v (s : State) (w : Word) : (s.setI w).v = s.v := rfl
@[simp] theorem State.setI_i (s : State) (w : Word) : (s.setI w).i = w := rfl
@[simp] theorem State.setI_pc (s : State) (w : Word) : (s.setI w).pc = s.pc := rfl
@[simp] theorem State.setI_sp (s : State) (w : Word) : (s.setI w).sp = s.sp := rfl
@[simp] theorem State.setI_stack (s : State) (w : Word) : (s.setI w).stack = s.stack := rfl
@[simp] theorem State.setI_mem (s : State) (w : Word) : (s.setI w).mem = s.mem := rfl
@[simp] theorem State.setI_fb (s : State) (w : Word) : (s.setI w).fb = s.fb := rfl
@[simp] theorem State.setI_run (s : State) (w : Word) : (s.setI w).run = s.run := rfl
@[simp] theorem State.setI_dt (s : State) (w : Word) : (s.setI w).dt = s.dt := rfl
@[simp] theorem State.setI_st (s : State) (w : Word) : (s.setI w).st = s.st := rfl
@[simp] theorem State.setI_ks (s : State) (w : Word) : (s.setI w).ks = s.ks := rfl
@[simp] theorem State.setI_draws (s : State) (w : Word) : (s.setI w).draws = s.draws := rfl

@[simp] theorem State.setPc_v (s : State) (w : Word) : (s.setPc w).v = s.v := rfl
@[simp] theorem State.setPc_i (s : State) (w : Word) : (s.setPc w).i = s.i := rfl
@[simp] theorem State.setPc_pc (s : State) (w : Word) : (s.setPc w).pc = w := rfl
@[simp] theorem State.setPc_sp (s : State) (w : Word) : (s.setPc w).sp = s.sp := rfl
@[simp] theorem State.setPc_stack (s : State) (w : Word) : (s.setPc w).stack = s.stack := rfl
@[simp] theorem State.setPc_mem (s : State) (w : Word) : (s.setPc w).mem = s.mem := rfl
@[simp] theorem State.setPc_fb (s : State) (w : Word) : (s.setPc w).fb = s.fb := rfl
@[simp] theorem State.setPc_run (s : State) (w : Word) : (s.setPc w).run = s.run := rfl
@[simp] theorem State.setPc_dt (s : State) (w : Word) : (s.setPc w).dt = s.dt := rfl
@[simp] theorem State.setPc_st (s : State) (w : Word) : (s.setPc w).st = s.st := rfl
@[simp] theorem State.setPc_ks (s : State) (w : Word) : (s.setPc w).ks = s.ks := rfl
@[simp] theorem State.setPc_draws (s : State) (w : Word) : (s.setPc w).draws = s.draws := rfl

@[simp] theorem State.setStack_v (s : State) (k : Vector StackSlot stackDepth) (p : Fin (spMax + 1)) : (s.setStack k p).v = s.v := rfl
@[simp] theorem State.setStack_i (s : State) (k : Vector StackSlot stackDepth) (p : Fin (spMax + 1)) : (s.setStack k p).i = s.i := rfl
@[simp] theorem State.setStack_pc (s : State) (k : Vector StackSlot stackDepth) (p : Fin (spMax + 1)) : (s.setStack k p).pc = s.pc := rfl
@[simp] theorem State.setStack_sp (s : State) (k : Vector StackSlot stackDepth) (p : Fin (spMax + 1)) : (s.setStack k p).sp = p := rfl
@[simp] theorem State.setStack_stack (s : State) (k : Vector StackSlot stackDepth) (p : Fin (spMax + 1)) : (s.setStack k p).stack = k := rfl
@[simp] theorem State.setStack_mem (s : State) (k : Vector StackSlot stackDepth) (p : Fin (spMax + 1)) : (s.setStack k p).mem = s.mem := rfl
@[simp] theorem State.setStack_fb (s : State) (k : Vector StackSlot stackDepth) (p : Fin (spMax + 1)) : (s.setStack k p).fb = s.fb := rfl
@[simp] theorem State.setStack_run (s : State) (k : Vector StackSlot stackDepth) (p : Fin (spMax + 1)) : (s.setStack k p).run = s.run := rfl
@[simp] theorem State.setStack_dt (s : State) (k : Vector StackSlot stackDepth) (p : Fin (spMax + 1)) : (s.setStack k p).dt = s.dt := rfl
@[simp] theorem State.setStack_st (s : State) (k : Vector StackSlot stackDepth) (p : Fin (spMax + 1)) : (s.setStack k p).st = s.st := rfl
@[simp] theorem State.setStack_ks (s : State) (k : Vector StackSlot stackDepth) (p : Fin (spMax + 1)) : (s.setStack k p).ks = s.ks := rfl
@[simp] theorem State.setStack_draws (s : State) (k : Vector StackSlot stackDepth) (p : Fin (spMax + 1)) : (s.setStack k p).draws = s.draws := rfl

@[simp] theorem State.setMem_v (s : State) (m : Memory) : (s.setMem m).v = s.v := rfl
@[simp] theorem State.setMem_i (s : State) (m : Memory) : (s.setMem m).i = s.i := rfl
@[simp] theorem State.setMem_pc (s : State) (m : Memory) : (s.setMem m).pc = s.pc := rfl
@[simp] theorem State.setMem_sp (s : State) (m : Memory) : (s.setMem m).sp = s.sp := rfl
@[simp] theorem State.setMem_stack (s : State) (m : Memory) : (s.setMem m).stack = s.stack := rfl
@[simp] theorem State.setMem_mem (s : State) (m : Memory) : (s.setMem m).mem = m := rfl
@[simp] theorem State.setMem_fb (s : State) (m : Memory) : (s.setMem m).fb = s.fb := rfl
@[simp] theorem State.setMem_run (s : State) (m : Memory) : (s.setMem m).run = s.run := rfl
@[simp] theorem State.setMem_dt (s : State) (m : Memory) : (s.setMem m).dt = s.dt := rfl
@[simp] theorem State.setMem_st (s : State) (m : Memory) : (s.setMem m).st = s.st := rfl
@[simp] theorem State.setMem_ks (s : State) (m : Memory) : (s.setMem m).ks = s.ks := rfl
@[simp] theorem State.setMem_draws (s : State) (m : Memory) : (s.setMem m).draws = s.draws := rfl

@[simp] theorem State.setFb_v (s : State) (f : Framebuffer) : (s.setFb f).v = s.v := rfl
@[simp] theorem State.setFb_i (s : State) (f : Framebuffer) : (s.setFb f).i = s.i := rfl
@[simp] theorem State.setFb_pc (s : State) (f : Framebuffer) : (s.setFb f).pc = s.pc := rfl
@[simp] theorem State.setFb_sp (s : State) (f : Framebuffer) : (s.setFb f).sp = s.sp := rfl
@[simp] theorem State.setFb_stack (s : State) (f : Framebuffer) : (s.setFb f).stack = s.stack := rfl
@[simp] theorem State.setFb_mem (s : State) (f : Framebuffer) : (s.setFb f).mem = s.mem := rfl
@[simp] theorem State.setFb_fb (s : State) (f : Framebuffer) : (s.setFb f).fb = f := rfl
@[simp] theorem State.setFb_run (s : State) (f : Framebuffer) : (s.setFb f).run = s.run := rfl
@[simp] theorem State.setFb_dt (s : State) (f : Framebuffer) : (s.setFb f).dt = s.dt := rfl
@[simp] theorem State.setFb_st (s : State) (f : Framebuffer) : (s.setFb f).st = s.st := rfl
@[simp] theorem State.setFb_ks (s : State) (f : Framebuffer) : (s.setFb f).ks = s.ks := rfl
@[simp] theorem State.setFb_draws (s : State) (f : Framebuffer) : (s.setFb f).draws = s.draws := rfl

@[simp] theorem State.setRun_v (s : State) (r : RunState) : (s.setRun r).v = s.v := rfl
@[simp] theorem State.setRun_i (s : State) (r : RunState) : (s.setRun r).i = s.i := rfl
@[simp] theorem State.setRun_pc (s : State) (r : RunState) : (s.setRun r).pc = s.pc := rfl
@[simp] theorem State.setRun_sp (s : State) (r : RunState) : (s.setRun r).sp = s.sp := rfl
@[simp] theorem State.setRun_stack (s : State) (r : RunState) : (s.setRun r).stack = s.stack := rfl
@[simp] theorem State.setRun_mem (s : State) (r : RunState) : (s.setRun r).mem = s.mem := rfl
@[simp] theorem State.setRun_fb (s : State) (r : RunState) : (s.setRun r).fb = s.fb := rfl
@[simp] theorem State.setRun_run (s : State) (r : RunState) : (s.setRun r).run = r := rfl
@[simp] theorem State.setRun_dt (s : State) (r : RunState) : (s.setRun r).dt = s.dt := rfl
@[simp] theorem State.setRun_st (s : State) (r : RunState) : (s.setRun r).st = s.st := rfl
@[simp] theorem State.setRun_ks (s : State) (r : RunState) : (s.setRun r).ks = s.ks := rfl
@[simp] theorem State.setRun_draws (s : State) (r : RunState) : (s.setRun r).draws = s.draws := rfl

@[simp] theorem State.setDt_v (s : State) (b : Byte) : (s.setDt b).v = s.v := rfl
@[simp] theorem State.setDt_i (s : State) (b : Byte) : (s.setDt b).i = s.i := rfl
@[simp] theorem State.setDt_pc (s : State) (b : Byte) : (s.setDt b).pc = s.pc := rfl
@[simp] theorem State.setDt_sp (s : State) (b : Byte) : (s.setDt b).sp = s.sp := rfl
@[simp] theorem State.setDt_stack (s : State) (b : Byte) : (s.setDt b).stack = s.stack := rfl
@[simp] theorem State.setDt_mem (s : State) (b : Byte) : (s.setDt b).mem = s.mem := rfl
@[simp] theorem State.setDt_fb (s : State) (b : Byte) : (s.setDt b).fb = s.fb := rfl
@[simp] theorem State.setDt_run (s : State) (b : Byte) : (s.setDt b).run = s.run := rfl
@[simp] theorem State.setDt_dt (s : State) (b : Byte) : (s.setDt b).dt = b := rfl
@[simp] theorem State.setDt_st (s : State) (b : Byte) : (s.setDt b).st = s.st := rfl
@[simp] theorem State.setDt_ks (s : State) (b : Byte) : (s.setDt b).ks = s.ks := rfl
@[simp] theorem State.setDt_draws (s : State) (b : Byte) : (s.setDt b).draws = s.draws := rfl

@[simp] theorem State.setSt_v (s : State) (b : Byte) : (s.setSt b).v = s.v := rfl
@[simp] theorem State.setSt_i (s : State) (b : Byte) : (s.setSt b).i = s.i := rfl
@[simp] theorem State.setSt_pc (s : State) (b : Byte) : (s.setSt b).pc = s.pc := rfl
@[simp] theorem State.setSt_sp (s : State) (b : Byte) : (s.setSt b).sp = s.sp := rfl
@[simp] theorem State.setSt_stack (s : State) (b : Byte) : (s.setSt b).stack = s.stack := rfl
@[simp] theorem State.setSt_mem (s : State) (b : Byte) : (s.setSt b).mem = s.mem := rfl
@[simp] theorem State.setSt_fb (s : State) (b : Byte) : (s.setSt b).fb = s.fb := rfl
@[simp] theorem State.setSt_run (s : State) (b : Byte) : (s.setSt b).run = s.run := rfl
@[simp] theorem State.setSt_dt (s : State) (b : Byte) : (s.setSt b).dt = s.dt := rfl
@[simp] theorem State.setSt_st (s : State) (b : Byte) : (s.setSt b).st = b := rfl
@[simp] theorem State.setSt_ks (s : State) (b : Byte) : (s.setSt b).ks = s.ks := rfl
@[simp] theorem State.setSt_draws (s : State) (b : Byte) : (s.setSt b).draws = s.draws := rfl

@[simp] theorem State.setKs_v (s : State) (k : Nibble) : (s.setKs k).v = s.v := rfl
@[simp] theorem State.setKs_i (s : State) (k : Nibble) : (s.setKs k).i = s.i := rfl
@[simp] theorem State.setKs_pc (s : State) (k : Nibble) : (s.setKs k).pc = s.pc := rfl
@[simp] theorem State.setKs_sp (s : State) (k : Nibble) : (s.setKs k).sp = s.sp := rfl
@[simp] theorem State.setKs_stack (s : State) (k : Nibble) : (s.setKs k).stack = s.stack := rfl
@[simp] theorem State.setKs_mem (s : State) (k : Nibble) : (s.setKs k).mem = s.mem := rfl
@[simp] theorem State.setKs_fb (s : State) (k : Nibble) : (s.setKs k).fb = s.fb := rfl
@[simp] theorem State.setKs_run (s : State) (k : Nibble) : (s.setKs k).run = s.run := rfl
@[simp] theorem State.setKs_dt (s : State) (k : Nibble) : (s.setKs k).dt = s.dt := rfl
@[simp] theorem State.setKs_st (s : State) (k : Nibble) : (s.setKs k).st = s.st := rfl
@[simp] theorem State.setKs_ks (s : State) (k : Nibble) : (s.setKs k).ks = k := rfl
@[simp] theorem State.setKs_draws (s : State) (k : Nibble) : (s.setKs k).draws = s.draws := rfl

@[simp] theorem State.drawn_v (s : State) : s.drawn.v = s.v := rfl
@[simp] theorem State.drawn_i (s : State) : s.drawn.i = s.i := rfl
@[simp] theorem State.drawn_pc (s : State) : s.drawn.pc = s.pc := rfl
@[simp] theorem State.drawn_sp (s : State) : s.drawn.sp = s.sp := rfl
@[simp] theorem State.drawn_stack (s : State) : s.drawn.stack = s.stack := rfl
@[simp] theorem State.drawn_mem (s : State) : s.drawn.mem = s.mem := rfl
@[simp] theorem State.drawn_fb (s : State) : s.drawn.fb = s.fb := rfl
@[simp] theorem State.drawn_run (s : State) : s.drawn.run = s.run := rfl
@[simp] theorem State.drawn_dt (s : State) : s.drawn.dt = s.dt := rfl
@[simp] theorem State.drawn_st (s : State) : s.drawn.st = s.st := rfl
@[simp] theorem State.drawn_ks (s : State) : s.drawn.ks = s.ks := rfl
@[simp] theorem State.drawn_draws (s : State) : s.drawn.draws = s.draws + 1 := rfl

@[simp] theorem State.advance_v (s : State) : s.advance.v = s.v := rfl
@[simp] theorem State.advance_i (s : State) : s.advance.i = s.i := rfl
@[simp] theorem State.advance_pc (s : State) : s.advance.pc = s.pc + 2 := rfl
@[simp] theorem State.advance_sp (s : State) : s.advance.sp = s.sp := rfl
@[simp] theorem State.advance_stack (s : State) : s.advance.stack = s.stack := rfl
@[simp] theorem State.advance_mem (s : State) : s.advance.mem = s.mem := rfl
@[simp] theorem State.advance_fb (s : State) : s.advance.fb = s.fb := rfl
@[simp] theorem State.advance_run (s : State) : s.advance.run = s.run := rfl
@[simp] theorem State.advance_dt (s : State) : s.advance.dt = s.dt := rfl
@[simp] theorem State.advance_st (s : State) : s.advance.st = s.st := rfl
@[simp] theorem State.advance_ks (s : State) : s.advance.ks = s.ks := rfl
@[simp] theorem State.advance_draws (s : State) : s.advance.draws = s.draws := rfl

@[simp] theorem State.halt_v (s : State) (r : HaltRecord) : (s.halt r).v = s.v := rfl
@[simp] theorem State.halt_i (s : State) (r : HaltRecord) : (s.halt r).i = s.i := rfl
@[simp] theorem State.halt_pc (s : State) (r : HaltRecord) : (s.halt r).pc = s.pc := rfl
@[simp] theorem State.halt_sp (s : State) (r : HaltRecord) : (s.halt r).sp = s.sp := rfl
@[simp] theorem State.halt_stack (s : State) (r : HaltRecord) : (s.halt r).stack = s.stack := rfl
@[simp] theorem State.halt_mem (s : State) (r : HaltRecord) : (s.halt r).mem = s.mem := rfl
@[simp] theorem State.halt_fb (s : State) (r : HaltRecord) : (s.halt r).fb = s.fb := rfl
@[simp] theorem State.halt_run (s : State) (r : HaltRecord) : (s.halt r).run = .halted r := rfl
@[simp] theorem State.halt_dt (s : State) (r : HaltRecord) : (s.halt r).dt = s.dt := rfl
@[simp] theorem State.halt_st (s : State) (r : HaltRecord) : (s.halt r).st = s.st := rfl
@[simp] theorem State.halt_ks (s : State) (r : HaltRecord) : (s.halt r).ks = s.ks := rfl
@[simp] theorem State.halt_draws (s : State) (r : HaltRecord) : (s.halt r).draws = s.draws := rfl

/-! ## Registers (R20) -/

@[simp] theorem State.getV_setV_same (s : State) (x : Nibble) (b : Byte) : (s.setV x b).getV x = b := by
  simp [State.getV]

theorem State.getV_setV_ne (s : State) {x r : Nibble} (b : Byte) (h : r ≠ x) : (s.setV x b).getV r = s.getV r := by
  have : x.toNat ≠ r.toNat := fun e => h (BitVec.eq_of_toNat_eq e.symm)
  simp [State.getV, this]

theorem State.getV_setV (s : State) (x r : Nibble) (b : Byte) :
    (s.setV x b).getV r = if r = x then b else s.getV r := by
  split
  · subst r; simp
  · exact State.getV_setV_ne s b ‹_›

/-- A read of a register sees only the register file. -/
theorem State.getV_congr {s t : State} (h : t.v = s.v) (r : Nibble) : t.getV r = s.getV r := by
  simp [State.getV, h]

@[simp] theorem State.getV_setI (s : State) (w : Word) (q : Nibble) : (s.setI w).getV q = s.getV q := rfl
@[simp] theorem State.getV_setPc (s : State) (w : Word) (q : Nibble) : (s.setPc w).getV q = s.getV q := rfl
@[simp] theorem State.getV_setStack (s : State) (k : Vector StackSlot stackDepth) (p : Fin (spMax + 1)) (q : Nibble) : (s.setStack k p).getV q = s.getV q := rfl
@[simp] theorem State.getV_setMem (s : State) (m : Memory) (q : Nibble) : (s.setMem m).getV q = s.getV q := rfl
@[simp] theorem State.getV_setFb (s : State) (f : Framebuffer) (q : Nibble) : (s.setFb f).getV q = s.getV q := rfl
@[simp] theorem State.getV_setRun (s : State) (r : RunState) (q : Nibble) : (s.setRun r).getV q = s.getV q := rfl
@[simp] theorem State.getV_setDt (s : State) (b : Byte) (q : Nibble) : (s.setDt b).getV q = s.getV q := rfl
@[simp] theorem State.getV_setSt (s : State) (b : Byte) (q : Nibble) : (s.setSt b).getV q = s.getV q := rfl
@[simp] theorem State.getV_setKs (s : State) (k : Nibble) (q : Nibble) : (s.setKs k).getV q = s.getV q := rfl
@[simp] theorem State.getV_drawn (s : State) (q : Nibble) : s.drawn.getV q = s.getV q := rfl
@[simp] theorem State.getV_advance (s : State) (q : Nibble) : s.advance.getV q = s.getV q := rfl
@[simp] theorem State.getV_halt (s : State) (r : HaltRecord) (q : Nibble) : (s.halt r).getV q = s.getV q := rfl

/-! ## A skip moves pc by 2 and nothing else (R120) -/

theorem skipIf_eq (c : Bool) (s : State) : skipIf c s = s.setPc (if c then s.pc + 2 else s.pc) := by
  cases c <;> rfl

end Sys2Proof.Machine
end

