-- ==== Sys2Proof/Laws/Encoding.lean ====
section
/-! SUPPORT. The fields of a packed word (spec/30_encoding.md R71, R72). -/

namespace Sys2Proof

section NNN
variable (t : Nibble) (nnn : Addr)

@[simp] theorem fieldT_packNNN : fieldT (packNNN t nnn) = t := by
  apply BitVec.eq_of_getLsbD_eq; intro k hk
  simp only [fieldT, packNNN, BitVec.getLsbD_extractLsb', BitVec.getLsbD_cast, BitVec.getLsbD_append]
  simp [hk]
@[simp] theorem fieldNNN_packNNN : fieldNNN (packNNN t nnn) = nnn := by
  apply BitVec.eq_of_getLsbD_eq; intro k hk
  simp only [fieldNNN, packNNN, BitVec.getLsbD_extractLsb', BitVec.getLsbD_cast, BitVec.getLsbD_append]
  simp [hk]

end NNN

section XKK
variable (t x : Nibble) (kk : Byte)

@[simp] theorem fieldT_packXKK : fieldT (packXKK t x kk) = t := by
  apply BitVec.eq_of_getLsbD_eq; intro k hk
  simp only [fieldT, packXKK, BitVec.getLsbD_extractLsb', BitVec.getLsbD_cast, BitVec.getLsbD_append]
  rw [if_neg (by omega), if_neg (by omega)]
  simp [(by omega : 12 + k - 8 - 4 = k), hk]
@[simp] theorem fieldX_packXKK : fieldX (packXKK t x kk) = x := by
  apply BitVec.eq_of_getLsbD_eq; intro k hk
  simp only [fieldX, packXKK, BitVec.getLsbD_extractLsb', BitVec.getLsbD_cast, BitVec.getLsbD_append]
  simp [hk]
@[simp] theorem fieldKK_packXKK : fieldKK (packXKK t x kk) = kk := by
  apply BitVec.eq_of_getLsbD_eq; intro k hk
  simp only [fieldKK, packXKK, BitVec.getLsbD_extractLsb', BitVec.getLsbD_cast, BitVec.getLsbD_append]
  simp [hk]

end XKK

section XYN
variable (t x y n : Nibble)

@[simp] theorem fieldT_packXYN : fieldT (packXYN t x y n) = t := by
  apply BitVec.eq_of_getLsbD_eq; intro k hk
  simp only [fieldT, packXYN, BitVec.getLsbD_extractLsb', BitVec.getLsbD_cast, BitVec.getLsbD_append]
  rw [if_neg (by omega), if_neg (by omega), if_neg (by omega)]
  simp [(by omega : 12 + k - 4 - 4 - 4 = k), hk]
@[simp] theorem fieldX_packXYN : fieldX (packXYN t x y n) = x := by
  apply BitVec.eq_of_getLsbD_eq; intro k hk
  simp only [fieldX, packXYN, BitVec.getLsbD_extractLsb', BitVec.getLsbD_cast, BitVec.getLsbD_append]
  rw [if_neg (by omega), if_neg (by omega)]
  simp [(by omega : 8 + k - 4 - 4 = k), hk]
@[simp] theorem fieldY_packXYN : fieldY (packXYN t x y n) = y := by
  apply BitVec.eq_of_getLsbD_eq; intro k hk
  simp only [fieldY, packXYN, BitVec.getLsbD_extractLsb', BitVec.getLsbD_cast, BitVec.getLsbD_append]
  simp [hk]
@[simp] theorem fieldN_packXYN : fieldN (packXYN t x y n) = n := by
  apply BitVec.eq_of_getLsbD_eq; intro k hk
  simp only [fieldN, packXYN, BitVec.getLsbD_extractLsb', BitVec.getLsbD_cast, BitVec.getLsbD_append]
  simp [hk]

end XYN

/-- The bytes of a word put together again are the word (R56). -/
@[simp] theorem wordOfBytes_bytesOfWord (w : Word) : wordOfBytes (w.extractLsb' 8 8) (w.extractLsb' 0 8) = w := by
  apply BitVec.eq_of_getLsbD_eq; intro k hk
  simp only [wordOfBytes, BitVec.getLsbD_extractLsb', BitVec.getLsbD_cast, BitVec.getLsbD_append]
  by_cases h : k < 8
  · simp [h]
  · simp [h, (by omega : k - 8 < 8), (by omega : 8 + (k - 8) = k)]

end Sys2Proof
end

