-- ==== Sys2Proof/Laws/Memory.lean ====
section
/-! SUPPORT. What the operations over memory do (spec/20_memory.md R51-R54, R64): a write is read back, leaves every other
address alone, and keeps the canonical form. -/

namespace Sys2Proof.Machine

theorem Memory.wfFrom_cons {lo c : Nat} {d : Byte} {rest : Memory} :
    Memory.wfFrom lo ((c, d) :: rest) = true ↔
      lo ≤ c ∧ c < params.memSize ∧ d ≠ unlistedByte c ∧ Memory.wfFrom (c + 1) rest = true := by
  simp only [Memory.wfFrom, Bool.and_eq_true, decide_eq_true_eq, and_assoc]

theorem Memory.wfFrom_mono {lo lo' : Nat} {m : Memory} (h : Memory.wfFrom lo m = true) (hl : lo' ≤ lo) :
    Memory.wfFrom lo' m = true := by
  cases m with
  | nil => rfl
  | cons cell rest =>
    obtain ⟨h1, h2⟩ := Memory.wfFrom_cons.1 h
    exact Memory.wfFrom_cons.2 ⟨by omega, h2⟩

/-- An address below every cell is unlisted. -/
theorem Memory.read_below {lo a : Nat} {m : Memory} (h : Memory.wfFrom lo m = true) (ha : a < lo) :
    m.read a = unlistedByte a := by
  induction m generalizing lo with
  | nil => rfl
  | cons cell rest ih =>
    obtain ⟨h1, -, -, h4⟩ := Memory.wfFrom_cons.1 h
    have : cell.1 ≠ a := by omega
    simpa [Memory.read, this] using ih h4 (by omega)

@[simp] theorem Memory.read_nil (a : Nat) : Memory.read [] a = unlistedByte a := rfl

theorem Memory.read_cons (c : Nat) (d : Byte) (rest : Memory) (a : Nat) :
    Memory.read ((c, d) :: rest) a = if c = a then d else Memory.read rest a := rfl

/-- A write leaves every other address alone, whatever form the list has. -/
theorem Memory.read_write_ne (m : Memory) {a a' : Nat} (b : Byte) (h : a' ≠ a) : (m.write a b).read a' = m.read a' := by
  induction m with
  | nil =>
    unfold Memory.write
    split
    · rfl
    · simp [Memory.read, Ne.symm h]
  | cons cell rest ih =>
    obtain ⟨c, d⟩ := cell
    unfold Memory.write
    split
    · split
      · rfl
      · rw [Memory.read_cons a b, if_neg (Ne.symm h)]
    · split
      · subst a
        split
        · rw [Memory.read_cons, if_neg (Ne.symm h)]
        · rw [Memory.read_cons, if_neg (Ne.symm h), Memory.read_cons, if_neg (Ne.symm h)]
      · rw [Memory.read_cons, Memory.read_cons, ih]

/-- A read after a write to the same address gives the byte written (R64). -/
theorem Memory.read_write_same {lo : Nat} {m : Memory} (hm : Memory.wfFrom lo m = true) (a : Nat) (b : Byte) :
    (m.write a b).read a = b := by
  induction m generalizing lo with
  | nil => unfold Memory.write; split <;> simp_all [Memory.read]
  | cons cell rest ih =>
    obtain ⟨c, d⟩ := cell
    obtain ⟨-, -, -, hrest⟩ := Memory.wfFrom_cons.1 hm
    unfold Memory.write
    split
    · rename_i hac
      split
      · rename_i hb
        rw [hb, Memory.read_cons, if_neg (by omega), Memory.read_below hrest (by omega)]
      · rw [Memory.read_cons, if_pos rfl]
    · split
      · subst a
        split
        · rename_i hb
          rw [hb, Memory.read_below hrest (by omega)]
        · rw [Memory.read_cons, if_pos rfl]
      · rename_i hne
        rw [Memory.read_cons, if_neg (Ne.symm hne), ih hrest]

/-- A write at an address of MEM keeps the canonical form. -/
theorem Memory.write_wfFrom {lo a : Nat} {m : Memory} (b : Byte) (hm : Memory.wfFrom lo m = true) (hlo : lo ≤ a)
    (ha : a < params.memSize) : Memory.wfFrom lo (m.write a b) = true := by
  induction m generalizing lo with
  | nil =>
    unfold Memory.write
    split
    · rfl
    · exact Memory.wfFrom_cons.2 ⟨hlo, ha, ‹_›, rfl⟩
  | cons cell rest ih =>
    obtain ⟨c, d⟩ := cell
    obtain ⟨h1, h2, h3, h4⟩ := Memory.wfFrom_cons.1 hm
    unfold Memory.write
    split
    · split
      · exact hm
      · exact Memory.wfFrom_cons.2 ⟨hlo, ha, ‹_›, Memory.wfFrom_cons.2 ⟨by omega, h2, h3, h4⟩⟩
    · split
      · subst a
        split
        · exact Memory.wfFrom_mono h4 (by omega)
        · exact Memory.wfFrom_cons.2 ⟨h1, h2, ‹_›, h4⟩
      · exact Memory.wfFrom_cons.2 ⟨h1, h2, h3, ih h4 (by omega)⟩

theorem Memory.write_wf {a : Nat} {m : Memory} (b : Byte) (hm : m.wf = true) (ha : a < params.memSize) :
    (m.write a b).wf = true :=
  Memory.write_wfFrom b hm (Nat.zero_le a) ha

theorem Memory.writeBytes_wf {a : Nat} {m : Memory} {bs : List Byte} (hm : m.wf = true)
    (ha : a + bs.length ≤ params.memSize) : (m.writeBytes a bs).wf = true := by
  induction bs generalizing a m with
  | nil => exact hm
  | cons b bs ih =>
    rw [List.length_cons] at ha
    exact ih (Memory.write_wf b hm (by omega)) (by omega)

/-- The bytes written lie in ascending order from `a` (R54). -/
theorem Memory.read_writeBytes_inside {a k : Nat} {m : Memory} {bs : List Byte} (hm : m.wf = true)
    (ha : a + bs.length ≤ params.memSize) (hk : k < bs.length) : (m.writeBytes a bs).read (a + k) = bs[k] := by
  induction bs generalizing a k m with
  | nil => exact absurd hk (Nat.not_lt_zero k)
  | cons b bs ih =>
    rw [List.length_cons] at ha hk
    have hw := Memory.write_wf (a := a) b hm (by omega)
    unfold Memory.writeBytes
    cases k with
    | zero =>
      have frame : ∀ (l : List Byte) (m' : Memory) (c : Nat), a < c → (m'.writeBytes c l).read a = m'.read a := by
        intro l
        induction l with
        | nil => intros; rfl
        | cons x l ih' =>
          intro m' c hc
          rw [Memory.writeBytes, ih' _ _ (by omega), Memory.read_write_ne _ _ (by omega)]
      simpa [frame bs _ (a + 1) (by omega)] using Memory.read_write_same hm a b
    | succ k =>
      have := ih (a := a + 1) (k := k) hw (by omega) (by omega)
      simpa [Nat.add_assoc, Nat.add_comm 1] using this

/-- Every address outside the span reads as before (R54), whatever form the list has. -/
theorem Memory.read_writeBytes_outside {a a' : Nat} (m : Memory) {bs : List Byte} (h : a' < a ∨ a + bs.length ≤ a') :
    (m.writeBytes a bs).read a' = m.read a' := by
  induction bs generalizing a m with
  | nil => rfl
  | cons b bs ih =>
    rw [List.length_cons] at h
    rw [Memory.writeBytes, ih _ (by omega), Memory.read_write_ne _ _ (by omega)]

@[simp] theorem Memory.readBytes_length (m : Memory) (a n : Nat) : (m.readBytes a n).length = n := by
  simp [Memory.readBytes]

@[simp] theorem Memory.readBytes_getElem (m : Memory) (a n k : Nat) (h : k < (m.readBytes a n).length) :
    (m.readBytes a n)[k] = m.read (a + k) := by
  simp [Memory.readBytes]

end Sys2Proof.Machine
end

