-- ==== Sys2Proof/Laws/Ops.lean ====
section
/-! SUPPORT. One lemma per shared operation: everything it can answer. -/

namespace Sys2Proof.Machine

theorem inRange_iff {a n : Nat} : inRange a n = true ↔ a + n ≤ 4096 := decide_eq_true_iff

/-- MemRead answers the bytes exactly when the span is in range, and OutOfBounds with its address and length
otherwise (R53). -/
theorem memRead_eq (s : State) (a n : Nat) :
    memRead s a n = if a + n ≤ 4096 then .ok (s.mem.readBytes a n) else .error ⟨.outOfBounds, .access a n⟩ := by
  simp only [memRead, inRange_iff]

/-- MemWrite writes the whole list exactly when the span is in range, and writes nothing otherwise (R54). -/
theorem memWrite_eq (s : State) (a : Nat) (bs : List Byte) :
    memWrite s a bs = if a + bs.length ≤ 4096 then .ok (s.setMem (s.mem.writeBytes a bs))
      else .error ⟨.outOfBounds, .access a bs.length⟩ := by
  simp only [memWrite, inRange_iff]

/-- Fetch16 is the big-endian word of the two bytes, or OutOfBounds (R56). -/
theorem fetch16_eq (s : State) (a : Nat) :
    fetch16 s a = if a + 2 ≤ 4096 then .ok (wordOfBytes (s.mem.read a) (s.mem.read (a + 1)))
      else .error ⟨.outOfBounds, .access a 2⟩ := by
  unfold fetch16
  rw [memRead_eq]
  by_cases h : a + 2 ≤ 4096
  · simp [h, Memory.readBytes, List.range_succ]
  · simp [h]

/-- readVRange never fails at the lengths FX55 passes (R23). -/
theorem readVRange_zero (s : State) (x : Nibble) :
    readVRange s 0 (rangeCount x) = .ok (s.v.toList.take (rangeCount x)) := by
  have := x.isLt
  simp only [readVRange, rangeCount, List.drop_zero, params_numV]
  exact if_pos (by omega)

theorem take_v_length (s : State) (x : Nibble) : (s.v.toList.take (rangeCount x)).length = rangeCount x := by
  have := x.isLt
  simp [rangeCount]
  omega

/-- V[k] for k up to X is the k-th byte that FX55 stores (R155). -/
theorem take_v_getElem (s : State) (x r : Nibble) (h : r.toNat < (s.v.toList.take (rangeCount x)).length) :
    (s.v.toList.take (rangeCount x))[r.toNat] = s.getV r := by
  simp [State.getV]

/-- What putV leaves in register r: the byte of the list that lands there, or the old value (R156). -/
theorem State.getV_putV (s : State) (k : Nat) (bs : List Byte) (r : Nibble) :
    (s.putV k bs).getV r = if k ≤ r.toNat then (bs[r.toNat - k]?).getD (s.getV r) else s.getV r := by
  induction bs generalizing s k with
  | nil => simp [State.putV]
  | cons b bs ih =>
    rw [State.putV, ih]
    have hr : r.toNat < 16 := r.isLt
    by_cases h1 : k + 1 ≤ r.toNat
    · have h2 : k ≠ r.toNat := by omega
      have h3 : r.toNat - k = (r.toNat - (k + 1)) + 1 := by omega
      simp [h1, (by omega : k ≤ r.toNat), h3, State.getV, h2]
    · by_cases h2 : k = r.toNat
      · subst h2
        simp [State.getV]
      · have h3 : ¬ k ≤ r.toNat := by omega
        simp [h1, h3, State.getV, h2]

/-- putV writes only V. -/
theorem State.putV_eq (s : State) (k : Nat) (bs : List Byte) : s.putV k bs = { s with v := (s.putV k bs).v } := by
  induction bs generalizing s k with
  | nil => rfl
  | cons b bs ih => rw [State.putV, ih]

/-- writeVRange never fails at the lengths FX65 passes (R23). -/
theorem writeVRange_zero (s : State) (x : Nibble) {bs : List Byte} (h : bs.length = rangeCount x) :
    writeVRange s 0 bs = .ok (s.putV 0 bs) := by
  have := x.isLt
  simp only [writeVRange, h, rangeCount, params_numV]
  exact if_pos (by omega)

/-- Push below capacity (R27). -/
theorem push_ok (s : State) (w : Word) (h : s.sp.val < 16) :
    push s w = .ok (s.setStack (s.stack.set s.sp.val w h) ⟨s.sp.val + 1, Nat.succ_lt_succ h⟩) := by
  simp [push, h]

/-- Push at capacity (R27). -/
theorem push_full (s : State) (w : Word) (h : s.sp.val = 16) : push s w = .error ⟨.stackOverflow, .stack 16⟩ := by
  simp [push, h]

/-- Pop of a non-empty stack (R28). -/
theorem pop_ok (s : State) (h : s.sp.val ≠ 0) :
    pop s = .ok (s.stack[s.sp.val - 1]'(by show s.sp.val - 1 < 16; have := s.sp_le; omega),
      s.setStack s.stack ⟨s.sp.val - 1, by show s.sp.val - 1 < 17; have := s.sp_le; omega⟩) := by
  simp only [pop, if_neg h]

/-- Pop of an empty stack (R28). -/
theorem pop_empty (s : State) (h : s.sp.val = 0) : pop s = .error ⟨.stackUnderflow, .stack 0⟩ := by
  simp [pop, h]

/-- A raise answers a next state in which only run has changed (R202, R205). -/
theorem raise_eq (r : Raise) (op : Word) (s : State) :
    raise r op s = .next (s.setRun (.halted ⟨r.cause, s.pc - 2, some op, r.info⟩)) := rfl

theorem raiseFetch_eq (r : Raise) (s : State) :
    raiseFetch r s = .next (s.setRun (.halted ⟨r.cause, s.pc, none, r.info⟩)) := rfl

theorem carryOut_eq (a b : Byte) : carryOut a b = decide (255 < a.toNat + b.toNat) := rfl
theorem shiftedOutHigh_eq (a : Byte) : shiftedOutHigh a = a.getLsbD 7 := rfl

/-- WriteRF at the default order: VF keeps the flag, V[x] the result unless x is F (R130, D8). -/
theorem getV_writeRF (x q : Nibble) (r : Byte) (f : Bool) (s : State) :
    (writeRF x r f s).getV q = if q = regF then flagByte f else if q = x then r else s.getV q := by
  simp [writeRF, writeRFWith, State.getV_setV]

/-- WriteRF writes only V. -/
theorem writeRF_eq (x : Nibble) (r : Byte) (f : Bool) (s : State) :
    writeRF x r f s = (s.setV x r).setV regF (flagByte f) := rfl

end Sys2Proof.Machine
end

