-- ==== Sys2Proof/Laws/Ports.lean ====
section
/-! SUPPORT. What the outside agents and the devices behind the ports can do (spec/60_exceptions.md R209, R221-R226). -/

namespace Sys2Proof.Machine

/-! ## The outside moves: only dt, st, ks and draws -/

@[simp] theorem envMove_v (inp : EnvInput) (s : State) : (envMove inp s).v = s.v := rfl
@[simp] theorem envMove_i (inp : EnvInput) (s : State) : (envMove inp s).i = s.i := rfl
@[simp] theorem envMove_pc (inp : EnvInput) (s : State) : (envMove inp s).pc = s.pc := rfl
@[simp] theorem envMove_sp (inp : EnvInput) (s : State) : (envMove inp s).sp = s.sp := rfl
@[simp] theorem envMove_stack (inp : EnvInput) (s : State) : (envMove inp s).stack = s.stack := rfl
@[simp] theorem envMove_mem (inp : EnvInput) (s : State) : (envMove inp s).mem = s.mem := rfl
@[simp] theorem envMove_fb (inp : EnvInput) (s : State) : (envMove inp s).fb = s.fb := rfl
@[simp] theorem envMove_run (inp : EnvInput) (s : State) : (envMove inp s).run = s.run := rfl
@[simp] theorem envMove_dt (inp : EnvInput) (s : State) : (envMove inp s).dt = timerDecay s.dt inp.delayTicks := rfl
@[simp] theorem envMove_st (inp : EnvInput) (s : State) : (envMove inp s).st = timerDecay s.st inp.soundTicks := rfl
@[simp] theorem envMove_ks (inp : EnvInput) (s : State) : (envMove inp s).ks = inp.setKey.getD s.ks := rfl
@[simp] theorem envMove_draws (inp : EnvInput) (s : State) : (envMove inp s).draws = s.draws + 1 := rfl
@[simp] theorem envMove_getV (inp : EnvInput) (s : State) (r : Nibble) : (envMove inp s).getV r = s.getV r := rfl

/-! ## Timers -/

/-- One decrement: by exactly 1, and not below 0 (R221). -/
theorem timerTick_toNat (b : Byte) : (timerTick b).toNat = b.toNat - 1 := by
  unfold timerTick
  split
  · simp_all
  · rename_i h
    have h0 : b.toNat ≠ 0 := fun e => h (BitVec.eq_of_toNat_eq e)
    have := b.isLt
    rw [BitVec.toNat_sub]
    simp
    omega

/-- `k` decrements: max(b - k, 0) (R222). -/
theorem timerDecay_toNat (b : Byte) (k : Nat) : (timerDecay b k).toNat = b.toNat - k := by
  induction k generalizing b with
  | zero => rfl
  | succ k ih => rw [timerDecay, ih, timerTick_toNat]; omega

/-! ## Keyboard -/

/-- The default of IS_PRESSED in numbers (R44). -/
theorem keyPressed_iff (s : State) (b : Byte) : keyPressed s b = true ↔ s.ks ≠ 0 ∧ b.toNat = s.ks.toNat := by
  have := s.ks.isLt
  simp [keyPressed, isPressedDefault, BitVec.toNat_eq]
  omega

/-- A key that ends the wait has a non-zero code (R45). -/
theorem waitKey_ne_zero {held k : Nibble} {inp : EnvInput} (h : waitKey held inp = some k) : k ≠ 0 := by
  unfold waitKey at h
  split at h <;> split at h <;> simp_all

end Sys2Proof.Machine
end

