-- ==== Sys2Proof/Laws/Frames.lean ====
section
/-! SUPPORT. The frame of each shared operation: what it leaves as it was. -/

namespace Sys2Proof.Machine

theorem Frame.refl (c : StatePart → Prop) (s : State) : Frame c s s := by
  intro p _; cases p <;> rfl

/-- A frame with fewer changed parts is a frame with more. -/
theorem Frame.mono {c d : StatePart → Prop} {s t : State} (h : Frame c s t) (hcd : ∀ p, c p → d p) : Frame d s t :=
  fun p hp => h p fun hc => hp (hcd p hc)

theorem Frame.trans {c : StatePart → Prop} {s t u : State} (h : Frame c s t) (h' : Frame c t u) : Frame c s u := by
  intro p hp
  have h1 := h p hp
  have h2 := h' p hp
  cases p <;> exact h2.trans h1

theorem frame_setV (s : State) (x : Nibble) (b : Byte) : Frame (· = .reg x) s (s.setV x b) := by
  intro p hp; cases p <;> simp_all [StatePart.Same, State.getV_setV]

theorem frame_setI (s : State) (w : Word) : Frame (· = .index) s (s.setI w) := by
  intro p hp; cases p <;> simp_all [StatePart.Same]

theorem frame_setPc (s : State) (w : Word) : Frame (· = .pc) s (s.setPc w) := by
  intro p hp; cases p <;> simp_all [StatePart.Same]

theorem frame_setFb (s : State) (f : Framebuffer) : Frame (· = .pixels) s (s.setFb f) := by
  intro p hp; cases p <;> simp_all [StatePart.Same]

theorem frame_setRun (s : State) (r : RunState) : Frame (· = .run) s (s.setRun r) := by
  intro p hp; cases p <;> simp_all [StatePart.Same]

theorem frame_setDt (s : State) (b : Byte) : Frame (· = .delay) s (s.setDt b) := by
  intro p hp; cases p <;> simp_all [StatePart.Same]

theorem frame_setSt (s : State) (b : Byte) : Frame (· = .sound) s (s.setSt b) := by
  intro p hp; cases p <;> simp_all [StatePart.Same]

theorem frame_drawn (s : State) : Frame (· = .draws) s s.drawn := by
  intro p hp; cases p <;> simp_all [StatePart.Same]

theorem frame_writeRF (s : State) (x : Nibble) (r : Byte) (f : Bool) :
    Frame (fun p => p = .reg x ∨ p = .reg regF) s (writeRF x r f s) := by
  intro p hp; cases p <;> simp_all [StatePart.Same, writeRF_eq, State.getV_setV]

/-- MemWrite in range changes only the bytes of its span (R54). -/
theorem frame_writeBytes (s : State) (a : Nat) (bs : List Byte) :
    Frame (fun p => ∃ b, p = .byte b ∧ a ≤ b ∧ b < a + bs.length) s (s.setMem (s.mem.writeBytes a bs)) := by
  intro p hp
  cases p <;> simp_all [StatePart.Same]
  rename_i b
  apply Memory.read_writeBytes_outside
  by_cases h : a ≤ b
  · exact .inr (hp h)
  · omega

/-- Loading a list of bytes from V0 on changes only the registers it reaches (R156). -/
theorem frame_putV (s : State) (bs : List Byte) : Frame (fun p => ∃ r, p = .reg r ∧ r.toNat < bs.length) s (s.putV 0 bs) := by
  intro p hp
  cases p
  case reg r =>
    have : ¬ r.toNat < bs.length := fun h => hp ⟨r, rfl, h⟩
    simp [StatePart.Same, State.getV_putV, List.getElem?_eq_none (Nat.le_of_not_lt this)]
  all_goals simp only [StatePart.Same]; rw [State.putV_eq]

/-- Push changes only SP and the slot it fills (R27). -/
theorem frame_push (s : State) (w : Word) (h : s.sp.val < 16) :
    Frame (fun p => p = .sp ∨ p = .slot s.sp.val) s
      (s.setStack (s.stack.set s.sp.val w h) ⟨s.sp.val + 1, Nat.succ_lt_succ h⟩) := by
  intro p hp
  cases p <;> simp_all [StatePart.Same]
  rename_i k
  rw [Vector.getElem?_set, if_neg (fun e => hp e.symm)]

/-- Pop changes only SP (R28). -/
theorem frame_setSp (s : State) (k : Fin 17) : Frame (· = .sp) s (s.setStack s.stack k) := by
  intro p hp; cases p <;> simp_all [StatePart.Same]

/-- The outside moves change only the devices and the counter of draws (R209). -/
theorem frame_envMove (inp : EnvInput) (s : State) : Frame StatePart.outside s (envMove inp s) := by
  intro p hp; cases p <;> simp_all [StatePart.Same, StatePart.outside]

end Sys2Proof.Machine
end

