-- ==== Sys2Proof/Laws/PerInstr.lean ====
section
/-! SUPPORT. The per-instruction family RowPattern: the encoding of an instruction matches the mask and the match of its row
of spec/opcode_table.json (spec/30_encoding.md R75). -/

namespace Sys2Proof.Laws.RowPattern

/-- The mask and the match of an instruction's row of the opcode table. -/
def row : Sys2Proof.Instr → Word × Word
  | .cls => (0xFFFF, 0x00E0)
  | .ret => (0xFFFF, 0x00EE)
  | .sys _ => (0xF000, 0x0000)
  | .jp _ => (0xF000, 0x1000)
  | .call _ => (0xF000, 0x2000)
  | .seImm _ _ => (0xF000, 0x3000)
  | .sneImm _ _ => (0xF000, 0x4000)
  | .seReg _ _ => (0xF000, 0x5000)
  | .ldImm _ _ => (0xF000, 0x6000)
  | .addImm _ _ => (0xF000, 0x7000)
  | .ldReg _ _ => (0xF00F, 0x8000)
  | .or _ _ => (0xF00F, 0x8001)
  | .and _ _ => (0xF00F, 0x8002)
  | .xor _ _ => (0xF00F, 0x8003)
  | .addReg _ _ => (0xF00F, 0x8004)
  | .sub _ _ => (0xF00F, 0x8005)
  | .shr _ _ => (0xF00F, 0x8006)
  | .subn _ _ => (0xF00F, 0x8007)
  | .shl _ _ => (0xF00F, 0x800E)
  | .sneReg _ _ => (0xF00F, 0x9000)
  | .ldI _ => (0xF000, 0xA000)
  | .jpV0 _ => (0xF000, 0xB000)
  | .rnd _ _ => (0xF000, 0xC000)
  | .drw _ _ _ => (0xF000, 0xD000)
  | .skp _ => (0xF0FF, 0xE09E)
  | .sknp _ => (0xF0FF, 0xE0A1)
  | .ldVxDt _ => (0xF0FF, 0xF007)
  | .ldVxK _ => (0xF0FF, 0xF00A)
  | .ldDtVx _ => (0xF0FF, 0xF015)
  | .ldStVx _ => (0xF0FF, 0xF018)
  | .addIVx _ => (0xF0FF, 0xF01E)
  | .ldFVx _ => (0xF0FF, 0xF029)
  | .ldBVx _ => (0xF0FF, 0xF033)
  | .ldMemVx _ => (0xF0FF, 0xF055)
  | .ldVxMem _ => (0xF0FF, 0xF065)

/-- The encoding of `i` matches its row. -/
def Statement (i : Sys2Proof.Instr) : Prop := encode i &&& (row i).1 = (row i).2

theorem mask_packNNN (t : Nibble) (nnn : Addr) : packNNN t nnn &&& 0xF000 = packNNN t 0 := by
  apply BitVec.eq_of_getLsbD_eq
  intro k hk
  simp only [packNNN, BitVec.getLsbD_and, BitVec.getLsbD_cast, BitVec.getLsbD_append]
  interval_cases k <;> simp

theorem mask_packXKK (t x : Nibble) (kk : Byte) : packXKK t x kk &&& 0xF000 = packXKK t 0 0 := by
  apply BitVec.eq_of_getLsbD_eq
  intro k hk
  simp only [packXKK, BitVec.getLsbD_and, BitVec.getLsbD_cast, BitVec.getLsbD_append]
  interval_cases k <;> simp

theorem mask_packXFN (t x : Nibble) (kk : Byte) : packXKK t x kk &&& 0xF0FF = packXKK t 0 kk := by
  apply BitVec.eq_of_getLsbD_eq
  intro k hk
  simp only [packXKK, BitVec.getLsbD_and, BitVec.getLsbD_cast, BitVec.getLsbD_append]
  interval_cases k <;> simp

theorem mask_packXY (t x y n : Nibble) : packXYN t x y n &&& 0xF000 = packXYN t 0 0 0 := by
  apply BitVec.eq_of_getLsbD_eq
  intro k hk
  simp only [packXYN, BitVec.getLsbD_and, BitVec.getLsbD_cast, BitVec.getLsbD_append]
  interval_cases k <;> simp

theorem mask_packXYN (t x y n : Nibble) : packXYN t x y n &&& 0xF00F = packXYN t 0 0 n := by
  apply BitVec.eq_of_getLsbD_eq
  intro k hk
  simp only [packXYN, BitVec.getLsbD_and, BitVec.getLsbD_cast, BitVec.getLsbD_append]
  interval_cases k <;> simp

theorem cls : Statement (.cls) := rfl
theorem ret : Statement (.ret) := rfl
theorem sys (nnn : Addr) : Statement (.sys nnn) := (mask_packNNN _ _).trans rfl
theorem jp (nnn : Addr) : Statement (.jp nnn) := (mask_packNNN _ _).trans rfl
theorem call (nnn : Addr) : Statement (.call nnn) := (mask_packNNN _ _).trans rfl
theorem seImm (x : Nibble) (kk : Byte) : Statement (.seImm x kk) := (mask_packXKK _ _ _).trans rfl
theorem sneImm (x : Nibble) (kk : Byte) : Statement (.sneImm x kk) := (mask_packXKK _ _ _).trans rfl
theorem seReg (x : Nibble) (y : Nibble) : Statement (.seReg x y) := (mask_packXY _ _ _ _).trans rfl
theorem ldImm (x : Nibble) (kk : Byte) : Statement (.ldImm x kk) := (mask_packXKK _ _ _).trans rfl
theorem addImm (x : Nibble) (kk : Byte) : Statement (.addImm x kk) := (mask_packXKK _ _ _).trans rfl
theorem ldReg (x : Nibble) (y : Nibble) : Statement (.ldReg x y) := (mask_packXYN _ _ _ _).trans rfl
theorem or (x : Nibble) (y : Nibble) : Statement (.or x y) := (mask_packXYN _ _ _ _).trans rfl
theorem and (x : Nibble) (y : Nibble) : Statement (.and x y) := (mask_packXYN _ _ _ _).trans rfl
theorem xor (x : Nibble) (y : Nibble) : Statement (.xor x y) := (mask_packXYN _ _ _ _).trans rfl
theorem addReg (x : Nibble) (y : Nibble) : Statement (.addReg x y) := (mask_packXYN _ _ _ _).trans rfl
theorem sub (x : Nibble) (y : Nibble) : Statement (.sub x y) := (mask_packXYN _ _ _ _).trans rfl
theorem shr (x : Nibble) (y : Nibble) : Statement (.shr x y) := (mask_packXYN _ _ _ _).trans rfl
theorem subn (x : Nibble) (y : Nibble) : Statement (.subn x y) := (mask_packXYN _ _ _ _).trans rfl
theorem shl (x : Nibble) (y : Nibble) : Statement (.shl x y) := (mask_packXYN _ _ _ _).trans rfl
theorem sneReg (x : Nibble) (y : Nibble) : Statement (.sneReg x y) := (mask_packXYN _ _ _ _).trans rfl
theorem ldI (nnn : Addr) : Statement (.ldI nnn) := (mask_packNNN _ _).trans rfl
theorem jpV0 (nnn : Addr) : Statement (.jpV0 nnn) := (mask_packNNN _ _).trans rfl
theorem rnd (x : Nibble) (kk : Byte) : Statement (.rnd x kk) := (mask_packXKK _ _ _).trans rfl
theorem drw (x : Nibble) (y : Nibble) (n : Nibble) : Statement (.drw x y n) := (mask_packXY _ _ _ _).trans rfl
theorem skp (x : Nibble) : Statement (.skp x) := (mask_packXFN _ _ _).trans rfl
theorem sknp (x : Nibble) : Statement (.sknp x) := (mask_packXFN _ _ _).trans rfl
theorem ldVxDt (x : Nibble) : Statement (.ldVxDt x) := (mask_packXFN _ _ _).trans rfl
theorem ldVxK (x : Nibble) : Statement (.ldVxK x) := (mask_packXFN _ _ _).trans rfl
theorem ldDtVx (x : Nibble) : Statement (.ldDtVx x) := (mask_packXFN _ _ _).trans rfl
theorem ldStVx (x : Nibble) : Statement (.ldStVx x) := (mask_packXFN _ _ _).trans rfl
theorem addIVx (x : Nibble) : Statement (.addIVx x) := (mask_packXFN _ _ _).trans rfl
theorem ldFVx (x : Nibble) : Statement (.ldFVx x) := (mask_packXFN _ _ _).trans rfl
theorem ldBVx (x : Nibble) : Statement (.ldBVx x) := (mask_packXFN _ _ _).trans rfl
theorem ldMemVx (x : Nibble) : Statement (.ldMemVx x) := (mask_packXFN _ _ _).trans rfl
theorem ldVxMem (x : Nibble) : Statement (.ldVxMem x) := (mask_packXFN _ _ _).trans rfl

end Sys2Proof.Laws.RowPattern
end

