-- ==== Sys2Proof/Laws/Screen.lean ====
section
/-! SUPPORT. Pixels of the framebuffer after the operations on it (spec/10_state.md R30, R31; spec/40_display.md R101). -/

namespace Sys2Proof.Machine

/-- A flip inverts its own pixel and leaves every other one. -/
theorem Framebuffer.pixel_flip (fb : Framebuffer) (x y px py : Nat) :
    (fb.flip x y).pixel px py =
      if px % 64 = x % 64 ∧ py % 32 = y % 32 then !fb.pixel px py else fb.pixel px py := by
  simp only [Framebuffer.flip, Framebuffer.pixel, params_fbWidth, params_fbHeight]
  by_cases hy : y % 32 = py % 32
  · by_cases hx : x % 64 = px % 64
    · simp [hx, hy]
    · simp [hy, hx, Ne.symm hx]
  · simp [hy, Ne.symm hy]

@[simp] theorem Framebuffer.pixel_clear (px py : Nat) : fbClear.pixel px py = false := by
  simp [Framebuffer.pixel, fbClear]

/-- A pixel depends on its coordinates only mod 64 and mod 32. -/
theorem Framebuffer.pixel_mod (fb : Framebuffer) (px py : Nat) : fb.pixel (px % 64) (py % 32) = fb.pixel px py := by
  simp [Framebuffer.pixel]

/-- Two framebuffers with the same pixels are the same. -/
theorem Framebuffer.ext_pixel {f g : Framebuffer} (h : ∀ px py, px < 64 → py < 32 → f.pixel px py = g.pixel px py) :
    f = g := by
  apply Vector.ext
  intro y hy
  apply Vector.ext
  intro x hx
  simpa [Framebuffer.pixel, Nat.mod_eq_of_lt hy, Nat.mod_eq_of_lt hx] using h x y hx hy

end Sys2Proof.Machine
end

