-- ==== Sys2Proof/Tests/Slice0.lean ====
section
/-! SUPPORT. The model's own tests: the smoke of WellFormed, one decoded word per constructor written out from the spec's
encoding of it, small steps with their results from spec/95_test_vectors.md and the rules' examples, and a witness for the
hypotheses of each statement. -/

namespace Sys2Proof.Tests

open Sys2Proof.Machine

/-! ## WellFormed: SYS has no word below 0x100 (R81) -/

theorem test_wellFormed_sys_refused : (Instr.sys 0x0E0).wellFormed = false ∧ (Instr.sys 0x0FF).wellFormed = false := by decide
theorem test_wellFormed_sys_accepted : (Instr.sys 0x100).wellFormed = true := by decide

/-! ## Parameters: the table of R6 -/

theorem test_params : params.memSize = 4096 ∧ params.numV = 16 ∧ params.vWidth = 8 ∧ params.iWidth = 16 ∧
    params.pcWidth = 16 ∧ params.stackDepth = 16 ∧ params.stackSlotWidth = 16 ∧ params.spMax = 16 ∧ params.fbWidth = 64 ∧
    params.fbHeight = 32 ∧ params.fontSize = 80 ∧ params.font.length = params.fontSize ∧
    params.memSize - params.programStart.toNat = params.maxRom := by decide

/-! ## Decoding: a word per constructor, its bits written from the format of R72 and the pattern of R75 -/

theorem test_decode_cls : decode 0b0000000011100000 = .ok .cls := by decide
theorem test_decode_ret : decode 0b0000000011101110 = .ok .ret := by decide
theorem test_decode_sys : decode 0b0000_0011_0100_0101 = .ok (.sys 0x345) := by decide
theorem test_decode_jp : decode 0b0001_0010_0000_0100 = .ok (.jp 0x204) := by decide
theorem test_decode_call : decode 0b0010_0010_0001_0000 = .ok (.call 0x210) := by decide
theorem test_decode_seImm : decode 0b0011_0001_0100_0010 = .ok (.seImm 0x1 0x42) := by decide
theorem test_decode_sneImm : decode 0b0100_0011_0001_0001 = .ok (.sneImm 0x3 0x11) := by decide
theorem test_decode_seReg : decode 0b0101_0001_0010_1111 = .ok (.seReg 0x1 0x2) := by decide
theorem test_decode_ldImm : decode 0b0110_1010_0000_0101 = .ok (.ldImm 0xA 0x05) := by decide
theorem test_decode_addImm : decode 0b0111_1010_0000_1011 = .ok (.addImm 0xA 0x0B) := by decide
theorem test_decode_ldReg : decode 0b1000_0000_0001_0000 = .ok (.ldReg 0x0 0x1) := by decide
theorem test_decode_or : decode 0b1000_0000_0001_0001 = .ok (.or 0x0 0x1) := by decide
theorem test_decode_and : decode 0b1000_0000_0001_0010 = .ok (.and 0x0 0x1) := by decide
theorem test_decode_xor : decode 0b1000_0000_0001_0011 = .ok (.xor 0x0 0x1) := by decide
theorem test_decode_addReg : decode 0b1000_0000_0001_0100 = .ok (.addReg 0x0 0x1) := by decide
theorem test_decode_sub : decode 0b1000_0000_0001_0101 = .ok (.sub 0x0 0x1) := by decide
theorem test_decode_shr : decode 0b1000_0011_1010_0110 = .ok (.shr 0x3 0xA) := by decide
theorem test_decode_subn : decode 0b1000_0000_0001_0111 = .ok (.subn 0x0 0x1) := by decide
theorem test_decode_shl : decode 0b1000_0011_1010_1110 = .ok (.shl 0x3 0xA) := by decide
theorem test_decode_sneReg : decode 0b1001_0001_0010_0000 = .ok (.sneReg 0x1 0x2) := by decide
theorem test_decode_ldI : decode 0b1010_0011_0000_0000 = .ok (.ldI 0x300) := by decide
theorem test_decode_jpV0 : decode 0b1011_0011_0000_0000 = .ok (.jpV0 0x300) := by decide
theorem test_decode_rnd : decode 0b1100_0011_0000_1111 = .ok (.rnd 0x3 0x0F) := by decide
theorem test_decode_drw : decode 0b1101_0001_0010_0101 = .ok (.drw 0x1 0x2 0x5) := by decide
theorem test_decode_skp : decode 0b1110_0010_1001_1110 = .ok (.skp 0x2) := by decide
theorem test_decode_sknp : decode 0b1110_0010_1010_0001 = .ok (.sknp 0x2) := by decide
theorem test_decode_ldVxDt : decode 0b1111_0001_0000_0111 = .ok (.ldVxDt 0x1) := by decide
theorem test_decode_ldVxK : decode 0b1111_0011_0000_1010 = .ok (.ldVxK 0x3) := by decide
theorem test_decode_ldDtVx : decode 0b1111_0000_0001_0101 = .ok (.ldDtVx 0x0) := by decide
theorem test_decode_ldStVx : decode 0b1111_0001_0001_1000 = .ok (.ldStVx 0x1) := by decide
theorem test_decode_addIVx : decode 0b1111_0010_0001_1110 = .ok (.addIVx 0x2) := by decide
theorem test_decode_ldFVx : decode 0b1111_0000_0010_1001 = .ok (.ldFVx 0x0) := by decide
theorem test_decode_ldBVx : decode 0b1111_0000_0011_0011 = .ok (.ldBVx 0x0) := by decide
theorem test_decode_ldMemVx : decode 0b1111_0010_0101_0101 = .ok (.ldMemVx 0x2) := by decide
theorem test_decode_ldVxMem : decode 0b1111_0010_0110_0101 = .ok (.ldVxMem 0x2) := by decide

/-- The classes of R76, each by one word. -/
theorem test_decode_invalid :
    decode 0x00F1 = .error .zeroRow ∧ decode 0x0000 = .error .zeroRow ∧ decode 0x8128 = .error .eightRow ∧
    decode 0x9121 = .error .nineRow ∧ decode 0xE1FF = .error .eRow ∧ decode 0xF000 = .error .fRow := by decide

theorem test_decode_truncated : decodeBytes [0x6A] = .error .truncated ∧ decodeBytes [] = .error .truncated := by decide

theorem test_decodeTableWord : decodeTableWord 16 0xD125 = some (.drw 0x1 0x2 0x5) ∧ decodeTableWord 16 0x0000 = none := by
  decide

/-! ## One step at a time (spec/95_test_vectors.md; the outside agents do nothing) -/

/-- No decrement, no key update. -/
def quiet : EnvInput := { delayTicks := 0, soundTicks := 0, setKey := none, heldKeyWakes := false }

/-- The state after one step of `s` with the word `op` at pc. -/
def after (op : Word) (s : State) : State :=
  match stepWith quiet (placeWord s op) with
  | .next t => t
  | .fault _ => s
  | .refused _ => s

/-- Reset with a list of registers set. -/
def regs (l : List (Nibble × Byte)) : State := l.foldl (fun s p => s.setV p.1 p.2) State.reset

/-- `s` with I = `a` and the bytes `l` at I. -/
def atI (a : Word) (l : List Byte) (s : State) : State := (s.setI a).setMem (s.mem.writeBytes a.toNat l)

/-- E3, A1: 7XKK wraps with no flag. -/
theorem test_addImm_wraps : (after 0x7AFF (regs [(0xA, 0x01)])).getV 0xA = 0x00 ∧
    (after 0x7AFF (regs [(0xA, 0x01)])).getV 0xF = 0x00 := by decide
/-- A30. -/
theorem test_ldImm : (after 0x6A05 State.reset).getV 0xA = 0x05 ∧ (after 0x6A05 State.reset).pc = 0x202 := by decide
/-- A3. -/
theorem test_ldReg : (after 0x8120 (regs [(0x1, 0x03), (0x2, 0x44)])).getV 0x1 = 0x44 := by decide
/-- A4: OR leaves VF. -/
theorem test_or : (after 0x8121 (regs [(0x1, 0x0F), (0x2, 0xF0), (0xF, 0x07)])).getV 0x1 = 0xFF ∧
    (after 0x8121 (regs [(0x1, 0x0F), (0x2, 0xF0), (0xF, 0x07)])).getV 0xF = 0x07 := by decide
/-- A5. -/
theorem test_and : (after 0x8122 (regs [(0x1, 0x3C), (0x2, 0x0F)])).getV 0x1 = 0x0C := by decide
/-- A6. -/
theorem test_xor : (after 0x8123 (regs [(0x1, 0xFF), (0x2, 0x0F)])).getV 0x1 = 0xF0 := by decide
/-- A8: a sum of 256 carries; A7: a sum of 255 does not. -/
theorem test_addReg_carry : (after 0x8124 (regs [(0x1, 0x80), (0x2, 0x80)])).getV 0xF = 0x01 ∧
    (after 0x8124 (regs [(0x1, 0x7F), (0x2, 0x80)])).getV 0xF = 0x00 := by decide
/-- A12: Y = F adds the old VF. -/
theorem test_addReg_oldFlag : (after 0x81F4 (regs [(0x1, 0x01), (0xF, 0xFF)])).getV 0x1 = 0x00 := by decide
/-- A13: equal operands, no borrow; A17: X = F keeps the flag. -/
theorem test_sub : (after 0x8125 (regs [(0x1, 0x05), (0x2, 0x05)])).getV 0xF = 0x01 ∧
    (after 0x8F25 (regs [(0xF, 0x03), (0x2, 0x05)])).getV 0xF = 0x00 := by decide
/-- A18: SHR takes V[X], not V[Y]. -/
theorem test_shr : (after 0x8126 (regs [(0x1, 0x05), (0x2, 0xAA)])).getV 0x1 = 0x02 ∧
    (after 0x8126 (regs [(0x1, 0x05), (0x2, 0xAA)])).getV 0xF = 0x01 := by decide
/-- A22. -/
theorem test_subn : (after 0x8127 (regs [(0x1, 0x09), (0x2, 0x03)])).getV 0x1 = 0xFA ∧
    (after 0x8127 (regs [(0x1, 0x09), (0x2, 0x03)])).getV 0xF = 0x00 := by decide
/-- A24, A26. -/
theorem test_shl : (after 0x812E (regs [(0x1, 0x81)])).getV 0x1 = 0x02 ∧
    (after 0x8F0E (regs [(0xF, 0x80)])).getV 0xF = 0x01 := by decide
/-- A27: the draw is ANDed with KK. -/
theorem test_rnd : (rndWith 0xAB 0x3 0x0F State.reset).getV 0x3 = 0x0B := by decide
/-- S1, S2. -/
theorem test_seImm : (after 0x3142 (regs [(0x1, 0x42)])).pc = 0x204 ∧ (after 0x3142 (regs [(0x1, 0x41)])).pc = 0x202 := by
  decide
/-- S3, S4. -/
theorem test_sneImm : (after 0x4142 (regs [(0x1, 0x41)])).pc = 0x204 ∧ (after 0x4142 (regs [(0x1, 0x42)])).pc = 0x202 := by
  decide
/-- S6, S7. -/
theorem test_seReg : (after 0x5121 (regs [(0x1, 0x07), (0x2, 0x07)])).pc = 0x204 ∧
    (after 0x512F (regs [(0x1, 0x07), (0x2, 0x08)])).pc = 0x202 := by decide
/-- S8, S9. -/
theorem test_sneReg : (after 0x9120 (regs [(0x1, 0x07), (0x2, 0x08)])).pc = 0x204 ∧
    (after 0x9120 (regs [(0x1, 0x07), (0x2, 0x07)])).pc = 0x202 := by decide
/-- S11, S13, S17. -/
theorem test_skp : (after 0xE19E ((regs [(0x1, 0x05)]).setKs 5)).pc = 0x204 ∧
    (after 0xE19E State.reset).pc = 0x202 ∧ (after 0xE19E ((regs [(0x1, 0x15)]).setKs 5)).pc = 0x202 := by decide
/-- S15, S16. -/
theorem test_sknp : (after 0xE1A1 ((regs [(0x1, 0x05)]).setKs 5)).pc = 0x202 ∧ (after 0xE1A1 State.reset).pc = 0x204 := by
  decide
/-- C1. -/
theorem test_jp : (after 0x1ABC State.reset).pc = 0xABC := by decide
/-- C3. -/
theorem test_sys : (after 0x0100 State.reset).pc = 0x100 ∧ (after 0x0100 State.reset).sp = 0 := by decide
/-- C6. -/
theorem test_call : (after 0x2400 (State.reset.setPc 0x300)).pc = 0x400 ∧ (after 0x2400 (State.reset.setPc 0x300)).sp = 1 ∧
    (after 0x2400 (State.reset.setPc 0x300)).stack[0] = 0x302 := by decide
/-- C8. -/
theorem test_call_overflow : (after 0x2400 (State.reset.setStack (Vector.replicate 16 0x202) 16)).run =
    .halted ⟨.stackOverflow, 0x200, some 0x2400, .stack 16⟩ := by decide
/-- C7. -/
theorem test_ret : (after 0x00EE (State.reset.setStack (Vector.replicate 16 0x206) 1)).pc = 0x206 ∧
    (after 0x00EE (State.reset.setStack (Vector.replicate 16 0x206) 1)).sp = 0 := by decide
/-- C9. -/
theorem test_ret_underflow : (after 0x00EE State.reset).run = .halted ⟨.stackUnderflow, 0x200, some 0x00EE, .stack 0⟩ ∧
    (after 0x00EE State.reset).pc = 0x202 := by decide
/-- C11: no 12-bit mask. -/
theorem test_jpV0 : (after 0xBFFF (regs [(0x0, 0xFF)])).pc = 0x10FE := by decide
/-- C13: a fetch at 0x1000. -/
theorem test_fetch_fault : (match stepWith quiet (State.reset.setPc 0x1000) with
    | .next t => (t.run, t.pc) | .fault _ => (.running, 0) | .refused _ => (.running, 0)) =
    (.halted ⟨.outOfBounds, 0x1000, none, .access 0x1000 2⟩, 0x1000) := by decide
/-- C15: an odd pc fetches normally. -/
theorem test_odd_pc : (after 0x1208 (State.reset.setPc 0x201)).pc = 0x208 := by decide
/-- A29: nothing is written by an invalid word. -/
theorem test_invalid : (after 0x8128 (regs [(0x1, 0x01)])).run = .halted ⟨.invalidOpcode, 0x200, some 0x8128, .none⟩ ∧
    (after 0x8128 (regs [(0x1, 0x01)])).getV 0x1 = 0x01 := by decide
/-- M1. -/
theorem test_ldI : (after 0xA123 State.reset).i = 0x0123 := by decide
/-- M2, M3: no 12-bit wrap, 16-bit wrap. -/
theorem test_addIVx : (after 0xF01E ((regs [(0x0, 0x10)]).setI 0x0FFF)).i = 0x100F ∧
    (after 0xF01E ((regs [(0x0, 0xFF)]).setI 0xFFFF)).i = 0x00FE := by decide
/-- M8, M9: no nibble mask. -/
theorem test_ldFVx : (after 0xF029 (regs [(0x0, 0x10)])).i = 0x0050 ∧ (after 0xF029 (regs [(0x0, 0xFF)])).i = 0x04FB := by
  decide
/-- M15: the last span that fits. -/
theorem test_ldBVx : (after 0xF033 ((regs [(0x0, 255)]).setI 0xFFD)).mem.readBytes 0xFFD 3 = [2, 5, 5] := by decide
/-- M16: nothing is written past the end. -/
theorem test_ldBVx_fault :
    (after 0xF033 (atI 0xFFE [0xAA, 0xBB] (regs [(0x0, 255)]))).mem.readBytes 0xFFE 2 = [0xAA, 0xBB] ∧
    (after 0xF033 (atI 0xFFE [0xAA, 0xBB] (regs [(0x0, 255)]))).run =
      .halted ⟨.outOfBounds, 0x200, some 0xF033, .access 0xFFE 3⟩ := by decide
/-- M17. -/
theorem test_ldMemVx :
    (after 0xF355 ((regs [(0x0, 1), (0x1, 2), (0x2, 3), (0x3, 4), (0x4, 5)]).setI 0x300)).mem.readBytes 0x300 5 =
      [1, 2, 3, 4, 0] ∧
    (after 0xF355 ((regs [(0x0, 1), (0x1, 2), (0x2, 3), (0x3, 4), (0x4, 5)]).setI 0x300)).i = 0x300 := by decide
/-- M20. -/
theorem test_ldMemVx_fault : (after 0xFF55 ((regs [(0x0, 1)]).setI 0xFF1)).run =
    .halted ⟨.outOfBounds, 0x200, some 0xFF55, .access 0xFF1 16⟩ := by decide
/-- M21. -/
theorem test_ldVxMem : (after 0xF265 (atI 0x300 [0xA, 0xB, 0xC, 0xD] State.reset)).v.toList.take 4 = [0xA, 0xB, 0xC, 0] := by
  decide
/-- M22: the first 16 font bytes. -/
theorem test_ldVxMem_font : (after 0xFF65 State.reset).v.toList =
    [0xF0, 0x90, 0x90, 0x90, 0xF0, 0x20, 0x60, 0x20, 0x20, 0x70, 0xF0, 0x10, 0xF0, 0x80, 0xF0, 0xF0] := by decide
/-- D1. -/
theorem test_cls : (after 0x00E0 ((regs [(0xF, 9)]).setFb (fbClear.flip 5 5))).fb.pixel 5 5 = false ∧
    (after 0x00E0 ((regs [(0xF, 9)]).setFb (fbClear.flip 5 5))).getV 0xF = 9 := by decide
/-- D5 and D4: the start wraps, and so does a sprite that crosses the bottom edge. -/
theorem test_drw_wraps : (after 0xD011 (atI 0x300 [0x80] (regs [(0x0, 100), (0x1, 40)]))).fb.pixel 36 8 = true ∧
    (after 0xD012 (atI 0x300 [0x80, 0x80] (regs [(0x1, 31)]))).fb.pixel 0 0 = true := by decide
/-- D11: both coordinates are the old VF; D8: the empty range beyond memory faults. -/
theorem test_drw_flag : (after 0xDFF1 (atI 0x300 [0xC0] (regs [(0xF, 3)]))).fb.pixel 4 3 = true ∧
    (after 0xD010 (State.reset.setI 0x1001)).run = .halted ⟨.outOfBounds, 0x200, some 0xD010, .access 0x1001 0⟩ := by decide
/-- T2. -/
theorem test_ldVxDt : (after 0xF107 (State.reset.setDt 7)).getV 0x1 = 7 := by decide
/-- T1. -/
theorem test_ldDtVx : (after 0xF015 (regs [(0x0, 0x3C)])).dt = 60 := by decide
/-- T5. -/
theorem test_ldStVx : (after 0xF218 (regs [(0x2, 0x10)])).st = 16 := by decide
/-- T6. -/
theorem test_ldVxK : (after 0xF30A State.reset).run = .waitingKey 3 ∧ (after 0xF30A State.reset).pc = 0x202 := by decide
/-- T8: the destination may be VF. -/
theorem test_key_arrival : (match stepWith { quiet with setKey := some 1 } (State.reset.setRun (.waitingKey 0xF)) with
    | .next t => (t.run, t.getV 0xF) | .fault _ => (.running, 0) | .refused _ => (.running, 0)) = (.running, 1) := by decide
/-- R241: an image of more than 0xE00 bytes is refused. -/
theorem test_boot : (boot [0x12, 0x00]).map (fun s => s.mem.readBytes 0x1FF 4) = some [0, 0x12, 0, 0] := by decide

/-! ## Witnesses: for each statement with hypotheses, concrete values that meet them, each clause at a boundary -/

theorem witness_EncodeThenDecode : (Instr.sys 0x100).wellFormed = true ∧ (Instr.drw 0xF 0xF 0xF).wellFormed = true := by decide
theorem witness_DecodeThenEncode : decode 0x5001 = .ok (.seReg 0 0) ∧ decode 0x6A05 = .ok (.ldImm 0xA 0x05) := by decide
theorem witness_SneRegAnyNParameter : (0x9121 : Word).toNat / 4096 = 9 ∧ (0x6000 : Word).toNat / 4096 ≠ 9 := by decide
theorem witness_FetchIsBigEndian : 0xFFE + 2 ≤ 4096 ∧ 0x0FFF ≤ 0xFFF := by decide
theorem witness_StepRunsDecodedInstruction :
    let s := State.reset.withFetchWord 16 0x6A05
    s.run = .running ∧ s.pc.toNat + 2 ≤ 4096 ∧
    decodeBytes [s.mem.read s.pc.toNat, s.mem.read (s.pc.toNat + 1)] = .ok (.ldImm 0xA 0x05, []) := by decide
theorem witness_FetchFaultHalts :
    (State.reset.setPc 0x0FFF).run = .running ∧ 0x0FFF ≤ (State.reset.setPc 0x0FFF).pc.toNat := by decide
theorem witness_InvalidWordHalts : State.reset.run = .running ∧
    fetch16 State.reset State.reset.pc.toNat = .ok 0x0000 ∧ decode 0x0000 = .error .zeroRow := by decide
theorem witness_HaltedCoreTakesNoStep : (State.reset.setRun (.halted ⟨.invalidOpcode, 0x200, some 0, .none⟩)).run =
    .halted ⟨.invalidOpcode, 0x200, some 0, .none⟩ := by decide
theorem witness_WaitingStep : (State.reset.setRun (.waitingKey 0xF)).run = .waitingKey 0xF := by decide
/-- A press; an update that says no key; no update and no held key. -/
theorem witness_WaitNeverMissesAPress :
    let s := State.reset.setRun (.waitingKey 0x3)
    s.run = .waitingKey 0x3 ∧
    (({ quiet with setKey := some 0xF } : EnvInput).setKey = some 0xF ∧ (0xF : Nibble) ≠ 0) ∧
    ({ quiet with setKey := some 0 } : EnvInput).setKey = some 0 ∧ (quiet.setKey = none ∧ s.ks = 0) := by decide
theorem witness_OutsideMovesTouchOnlyDevices :
    quiet.setKey = none ∧ ({ quiet with setKey := some 5 } : EnvInput).setKey = some 5 := by decide

/-- One row at the last byte of memory with every column set. -/
def lastRow : State := (State.reset.setI 0xFFF).setMem (State.reset.mem.write 0xFFF 0xFF)

/-- The last span that fits; a covered pixel across the right edge, and one that is not covered. -/
theorem witness_DrawInvertsCoveredPixels_span :
    lastRow.i.toNat + (0x1 : Nibble).toNat ≤ 4096 ∧
    SpriteCovers lastRow.mem lastRow.i.toNat 1 63 31 6 31 ∧ ¬ SpriteCovers lastRow.mem lastRow.i.toNat 1 63 31 7 31 := by
  refine ⟨by decide, ⟨0, 7, by decide⟩, ?_⟩
  rintro ⟨r, c, hr, hc, hx, -⟩
  simp at hx; omega
/-- Some covered pixel is set before the draw. -/
theorem witness_DrawInvertsCoveredPixels_collision :
    ∃ px py, px < 64 ∧ py < 32 ∧ SpriteCovers lastRow.mem lastRow.i.toNat 1 0 0 px py ∧
      (lastRow.setFb (fbClear.flip 7 0)).fb.pixel px py = true :=
  ⟨7, 0, by decide, by decide, ⟨0, 7, by decide⟩, by decide⟩
/-- No pixel is set before the draw. -/
theorem witness_DrawInvertsCoveredPixels_none :
    ¬ ∃ px py, px < 64 ∧ py < 32 ∧ SpriteCovers lastRow.mem lastRow.i.toNat 1 0 0 px py ∧ lastRow.fb.pixel px py = true := by
  rintro ⟨px, py, -, -, -, h⟩
  simp [Framebuffer.pixel, lastRow, State.setI, State.setMem, State.reset] at h
theorem witness_DrawCoordinatesWrap :
    (100 : Byte).toNat % 64 = (36 : Byte).toNat % 64 ∧ (40 : Byte).toNat % 32 = (8 : Byte).toNat % 32 := by decide
theorem witness_JumpsSetPc : (0xF1 < 0x100 ∧ 0xF1 ≠ 0xE0 ∧ 0xF1 ≠ 0xEE) ∧ 0x100 ≤ (0x100 : Addr).toNat ∧
    0x0FFF ≤ (State.reset.setPc 0x0FFF).pc.toNat := by decide
/-- Reset with `k` entries on the stack. -/
def depth (k : Fin 17) : State := State.reset.setStack State.reset.stack k
theorem witness_CallPushesReturnAddress : (depth 15).sp.val < 16 ∧ (depth 0).sp.val < 16 := by decide
theorem witness_ReturnPopsAddress : 0 < (depth 1).sp.val ∧ 0 < (depth 16).sp.val := by decide
theorem witness_StackFaultsHalt : (depth 16).sp.val = 16 ∧ (depth 0).sp.val = 0 := by decide
theorem witness_ReturnResumesAfterCall : (depth 15).sp.val < 16 ∧
    ∃ t, exec (.call 0x300) (depth 15) = .next t ∧ ∃ u : State, u.sp = t.sp ∧ u.stack = t.stack :=
  ⟨by decide, _, rfl, _, rfl, rfl⟩
theorem witness_SixteenPushesFit : (depth 0).sp.val = 0 ∧ (depth 16).sp.val = 16 ∧ (depth 15).sp.val < 16 ∧
    (List.replicate 16 (0 : Word)).length ≤ 16 ∧ ¬ (List.replicate 17 (0 : Word)).length ≤ 16 := by decide
/-- Key 5 down and asked for; the same with bit 4 of V[X] set; no key down and code 0 asked for. -/
theorem witness_KeySkipsAreOpposite :
    let pressed (s : State) := s.ks ≠ 0 ∧ (s.getV 0x1).toNat = s.ks.toNat
    pressed ((regs [(0x1, 5)]).setKs 5) ∧ ¬ pressed ((regs [(0x1, 0x15)]).setKs 5) ∧ ¬ pressed State.reset := by decide
theorem witness_ArithmeticSetsFlag : (0x0 : Nibble) ≠ 0xF ∧ (0xE : Nibble) ≠ 0xF := by decide
theorem witness_ShiftsSetFlag : (0x0 : Nibble) ≠ 0xF := by decide
theorem witness_WriteOrdersDifferOnlyAtF : (0x0 : Nibble) ≠ 0xF := by decide
theorem witness_BcdStoresDigits :
    (State.reset.setI 0xFFD).mem.wf = true ∧ (State.reset.setI 0xFFD).i.toNat + 3 ≤ 4096 := by decide
theorem witness_BlockStore : (State.reset.setI 0xFF0).mem.wf = true ∧
    (State.reset.setI 0xFF0).i.toNat + ((0xF : Nibble).toNat + 1) ≤ 4096 ∧ (0xF : Nibble).toNat ≤ (0xF : Nibble).toNat := by
  decide
theorem witness_BlockLoad : (State.reset.setI 0xFFF).i.toNat + ((0x0 : Nibble).toNat + 1) ≤ 4096 := by decide
theorem witness_BlockStoreThenLoad : (State.reset.setI 0xFF0).mem.wf = true ∧
    (State.reset.setI 0xFF0).i.toNat + ((0xF : Nibble).toNat + 1) ≤ 4096 ∧
    ∃ t, exec (.ldMemVx 0xF) (State.reset.setI 0xFF0) = .next t ∧ ∃ u : State, u.mem = t.mem ∧ u.i = t.i :=
  ⟨by decide, by decide, _, rfl, _, rfl, rfl⟩
/-- The first I at which each instruction faults: DXY0, FX33, F055 and F065. -/
theorem witness_SpanFaultsHalt :
    4096 < (State.reset.setI 0x1001).i.toNat + (0x0 : Nibble).toNat ∧ 4096 < (State.reset.setI 0xFFE).i.toNat + 3 ∧
    4096 < (State.reset.setI 0x1000).i.toNat + ((0x0 : Nibble).toNat + 1) := by decide
theorem witness_MemReadChecksSpan : 0x1000 + 0 ≤ 4096 ∧ 1 < 2 ∧ 0xFFF + 1 ≤ 4096 ∧ 4096 < 0x1001 + 0 ∧ 4096 < 0xFFF + 2 := by
  decide
theorem witness_MemWriteStoresSpan : State.reset.mem.wf = true ∧ 0xFFE + [(1 : Byte), 2].length ≤ 4096 ∧
    4096 < 0xFFF + [(1 : Byte), 2].length := by decide
theorem witness_StoreSeenByFetch : (State.reset.setI 0xFFE).mem.wf = true ∧
    (State.reset.setI 0xFFE).i.toNat + ((0x1 : Nibble).toNat + 1) ≤ 4096 ∧
    (0x1 : Nibble).toNat = (0x0 : Nibble).toNat + 1 ∧ (0x1 : Nibble).toNat ≤ (0x1 : Nibble).toNat := by decide
theorem witness_TimerWrites : State.reset.getV 0x3 = 0 := by decide
/-- One decrement of each timer in every gap. -/
theorem witness_TimersRunOut : FairTimers (fun _ => { quiet with delayTicks := 1, soundTicks := 1 }) :=
  fun n => ⟨⟨n, Nat.le_refl n, Nat.one_pos⟩, n, Nat.le_refl n, Nat.one_pos⟩
theorem witness_InstructionsWriteOnlyTheirParts : ∃ t, exec (.ldImm 0xA 0x05) State.reset = .next t := ⟨_, rfl⟩
/-- An instruction that halts, and one that does not. -/
theorem witness_HaltsExactlyAsTabled : State.reset.run = .running ∧
    (∃ t, exec .ret State.reset = .next t) ∧ haltCauseOf State.reset .ret = some .stackUnderflow ∧
    (∃ t, exec (.jp 0x300) State.reset = .next t) ∧ haltCauseOf State.reset (.jp 0x300) = none :=
  ⟨rfl, ⟨_, rfl⟩, rfl, ⟨_, rfl⟩, rfl⟩
/-- The word 0x0000 at 0x200 halts the first step. -/
theorem witness_FaultsArePrecise_decode : ∃ t record, State.reset.run = .running ∧ step State.reset = .next t ∧
    t.run = .halted record ∧ State.reset.pc.toNat + 2 ≤ 4096 := ⟨_, _, rfl, rfl, rfl, by decide⟩
/-- A fetch at 0x0FFF halts. -/
theorem witness_FaultsArePrecise_fetch : ∃ t record, (State.reset.setPc 0x0FFF).run = .running ∧
    step (State.reset.setPc 0x0FFF) = .next t ∧ t.run = .halted record ∧ 4096 < (State.reset.setPc 0x0FFF).pc.toNat + 2 :=
  ⟨_, _, rfl, rfl, rfl, by decide⟩
theorem witness_RomLoad : (List.replicate 0xE00 (0 : Byte)).length ≤ 0xE00 ∧
    0xE00 < (List.replicate 0xE01 (0 : Byte)).length := by
  rw [List.length_replicate, List.length_replicate]; exact ⟨Nat.le_refl _, Nat.lt_succ_self _⟩
theorem witness_StepKeepsInvariant : State.reset.Inv ∧ ∃ t, step State.reset = .next t :=
  ⟨⟨by decide, by decide, fun _ _ h => absurd h (Nat.not_lt_zero _), fun _ h => nomatch h⟩, _, rfl⟩

end Sys2Proof.Tests
end

section
/-! SUPPORT and RESULTS. The fetch of a word (spec/20_memory.md R56). -/

namespace Sys2Proof

/-- The first byte is the most significant: the word's number is that of two digits in base 256. -/
theorem toNat_wordOfBytes (hi lo : Byte) : (wordOfBytes hi lo).toNat = 256 * hi.toNat + lo.toNat := by
  have shifted : hi.toNat <<< 8 + lo.toNat = hi.toNat <<< 8 ||| lo.toNat :=
    Nat.shiftLeft_add_eq_or_of_lt lo.isLt hi.toNat
  rw [wordOfBytes, BitVec.toNat_cast, BitVec.toNat_append, ← shifted, Nat.shiftLeft_eq, Nat.mul_comm]

end Sys2Proof

namespace Sys2Proof.Machine

theorem fetch16_of_fits {s : State} {a : Nat} (fits : a + 2 ≤ 4096) :
    fetch16 s a = .ok (wordOfBytes (s.mem.read a) (s.mem.read (a + 1))) := by
  rw [fetch16_eq, if_pos fits]

theorem fetch16_of_exceeds {s : State} {a : Nat} (exceeds : 0x0FFF ≤ a) :
    fetch16 s a = .error ⟨.outOfBounds, .access a 2⟩ := by
  rw [fetch16_eq, if_neg (by omega)]

/-- Settles O6: inside the memory the fetch answers the word of the two bytes, whose first byte is the most
significant; from 0x0FFF on its span does not fit. -/
theorem fetchIsBigEndian : Obligations.FetchIsBigEndian := by
  intro s a
  constructor
  · intro fits
    exact ⟨_, fetch16_of_fits fits, toNat_wordOfBytes _ _⟩
  · intro exceeds
    exact ⟨_, fetch16_of_exceeds exceeds, rfl⟩

end Sys2Proof.Machine
end

section
/-! SUPPORT and RESULTS. CLS: its one word and its effect (spec/30_encoding.md R81; spec/40_display.md R100). -/

namespace Sys2Proof

/-- Row 0 compares the whole word with 0x00E0 before anything else (R81). -/
theorem decodeZero_eq_cls_iff (op : Word) : decodeZero op = .ok .cls ↔ op = 0x00E0 := by
  by_cases isCls : op = 0x00E0
  · exact iff_of_true (if_pos isCls) isCls
  · have notCls : decodeZero op ≠ .ok .cls := by
      rw [decodeZero, if_neg isCls]
      split_ifs <;> simp
    exact iff_of_false notCls isCls

theorem decodeEight_ne_cls (op : Word) : decodeEight op ≠ .ok .cls := by
  unfold decodeEight
  split_ifs <;> simp

theorem decodeNine_ne_cls (anyN : Bool) (op : Word) : decodeNine anyN op ≠ .ok .cls := by
  unfold decodeNine
  split_ifs <;> simp

theorem decodeE_ne_cls (op : Word) : decodeE op ≠ .ok .cls := by
  unfold decodeE
  split_ifs <;> simp

theorem decodeF_ne_cls (op : Word) : decodeF op ≠ .ok .cls := by
  unfold decodeF
  split_ifs <;> simp

/-- In every other row the decoder answers an instruction of that row, or what the row's own selector answers. -/
theorem decodeWith_ne_cls_of_fieldT_ne_zero (anyN : Bool) {op : Word} (otherRow : fieldT op ≠ 0x0) :
    decodeWith anyN op ≠ .ok .cls := by
  rw [decodeWith, if_neg otherRow]
  intro answersCls
  simp only [ite_eq_iff, decodeEight_ne_cls, decodeNine_ne_cls, decodeE_ne_cls, decodeF_ne_cls, Except.ok.injEq,
    reduceCtorEq, and_false, or_false] at answersCls

theorem decode_eq_cls_iff (op : Word) : decode op = .ok .cls ↔ op = 0x00E0 := by
  by_cases rowZero : fieldT op = 0x0
  · rw [decode, decodeWith, if_pos rowZero, decodeZero_eq_cls_iff]
  · have notCls : decode op ≠ .ok .cls := decodeWith_ne_cls_of_fieldT_ne_zero _ rowZero
    have notWord : op ≠ 0x00E0 := by
      rintro rfl
      exact rowZero rfl
    exact iff_of_false notCls notWord

end Sys2Proof

namespace Sys2Proof.Machine

theorem exec_cls (s : State) : exec .cls s = .next (s.setFb fbClear) := rfl

/-- Settles O14: only row 0 of the decoder answers CLS, at its one word, and CLS puts the cleared framebuffer in place
of the old one. -/
theorem clearScreen : Obligations.ClearScreen := by
  constructor
  · exact decode_eq_cls_iff
  · intro s
    have cleared : ∀ px py, (s.setFb fbClear).fb.pixel px py = false := Framebuffer.pixel_clear
    exact ⟨s.setFb fbClear, exec_cls s, cleared, frame_setFb s fbClear⟩

end Sys2Proof.Machine
end

section
/-! SUPPORT and RESULTS. The jumps SYS, JP and JP V0: their words (spec/30_encoding.md R71, R81) and their effect
(spec/41_control_flow.md R111, R112, R114). -/

namespace Sys2Proof

theorem toNat_fieldT (op : Word) : (fieldT op).toNat = op.toNat / 0x1000 := by
  have small : op.toNat < 0x10000 := op.isLt
  rw [fieldT, BitVec.extractLsb'_toNat, Nat.shiftRight_eq_div_pow]
  omega

theorem toNat_fieldX (op : Word) : (fieldX op).toNat = op.toNat / 0x100 % 16 := by
  rw [fieldX, BitVec.extractLsb'_toNat, Nat.shiftRight_eq_div_pow]

/-- In base 0x1000 the digits of a word of format NNN are its top nibble and its NNN (R72). -/
theorem toNat_packNNN (t : Nibble) (nnn : Addr) : (packNNN t nnn).toNat = 0x1000 * t.toNat + nnn.toNat := by
  have disjoint : t.toNat <<< 12 + nnn.toNat = t.toNat <<< 12 ||| nnn.toNat :=
    Nat.shiftLeft_add_eq_or_of_lt nnn.isLt t.toNat
  rw [packNNN, BitVec.toNat_cast, BitVec.toNat_append, ← disjoint, Nat.shiftLeft_eq, Nat.mul_comm]

theorem ofNat_eq_packNNN {n : Nat} {t : Nibble} {nnn : Addr} (digits : n = 0x1000 * t.toNat + nnn.toNat) :
    BitVec.ofNat 16 n = packNNN t nnn := by
  rw [digits, ← toNat_packNNN, BitVec.ofNat_toNat, BitVec.setWidth_eq]

theorem decode_of_lt_0x1000 {op : Word} (rowZero : op.toNat < 0x1000) : decode op = decodeZero op := by
  have top : fieldT op = 0x0 := BitVec.eq_of_toNat_eq (by rw [toNat_fieldT]; exact Nat.div_eq_of_lt rowZero)
  rw [decode, decodeWith, if_pos top]

/-- Below 0x100 the field X is 0, so row 0 has only the words of CLS and RET (R81). -/
theorem decode_of_lt_0x100 {op : Word} (low : op.toNat < 0x100) (notCls : op ≠ 0x00E0) (notRet : op ≠ 0x00EE) :
    decode op = .error .zeroRow := by
  have noX : fieldX op = 0 := BitVec.eq_of_toNat_eq (by rw [toNat_fieldX, Nat.div_eq_of_lt low]; rfl)
  rw [decode_of_lt_0x1000 (by omega), decodeZero, if_neg notCls, if_neg notRet, if_neg (not_not_intro noX)]

theorem decode_ofNat_of_lt_0x100 {w : Nat} (low : w < 0x100) (notCls : w ≠ 0xE0) (notRet : w ≠ 0xEE) :
    decode (BitVec.ofNat 16 w) = .error .zeroRow := by
  have value : (BitVec.ofNat 16 w).toNat = w := Nat.mod_eq_of_lt (by omega)
  have ne_of_value_ne {op : Word} (other : w ≠ op.toNat) : BitVec.ofNat 16 w ≠ op := by
    rintro rfl
    exact other value.symm
  exact decode_of_lt_0x100 (value.symm ▸ low) (ne_of_value_ne notCls) (ne_of_value_ne notRet)

/-- From 0x100 on the field X of a word of row 0 is not 0, which makes it a SYS (R81). -/
theorem decode_packNNN_sys {nnn : Addr} (high : 0x100 ≤ nnn.toNat) : decode (packNNN 0x0 nnn) = .ok (.sys nnn) := by
  have value : (packNNN 0x0 nnn).toNat = nnn.toNat := (toNat_packNNN 0x0 nnn).trans (Nat.zero_add _)
  have bound : nnn.toNat < 0x1000 := nnn.isLt
  have ne_low {w : Word} (low : w.toNat < 0x100) : packNNN 0x0 nnn ≠ w := by
    rintro rfl
    omega
  have hasX : fieldX (packNNN 0x0 nnn) ≠ 0 := by
    intro noX
    have digit : nnn.toNat / 0x100 % 16 = 0 := by
      rw [← value, ← toNat_fieldX, noX]
      rfl
    omega
  rw [decode_of_lt_0x1000 (value ▸ bound), decodeZero, if_neg (ne_low (by decide)), if_neg (ne_low (by decide)),
    if_pos hasX, fieldNNN_packNNN]

theorem decode_packNNN_jp (nnn : Addr) : decode (packNNN 0x1 nnn) = .ok (.jp nnn) := by
  simp [decode, decodeWith]

theorem decode_packNNN_jpV0 (nnn : Addr) : decode (packNNN 0xB nnn) = .ok (.jpV0 nnn) := by
  simp [decode, decodeWith]

end Sys2Proof

namespace Sys2Proof.Machine

theorem exec_sys (nnn : Addr) (s : State) : exec (.sys nnn) s = .next (s.setPc (addrOf nnn)) := rfl

theorem exec_jp (nnn : Addr) (s : State) : exec (.jp nnn) s = .next (s.setPc (addrOf nnn)) := rfl

theorem exec_jpV0 (nnn : Addr) (s : State) : exec (.jpV0 nnn) s = .next (s.setPc (addrOf nnn + wordOfV s 0)) := rfl

/-- Zero extension keeps the value of NNN in the 16 bits of pc (R73). -/
theorem toNat_addrOf (nnn : Addr) : (addrOf nnn : Word).toNat = nnn.toNat :=
  BitVec.toNat_setWidth_of_le (by decide)

theorem toNat_wordOfV (s : State) (x : Nibble) : (wordOfV s x : Word).toNat = (s.getV x).toNat :=
  BitVec.toNat_setWidth_of_le (by decide)

/-- The target of JP V0 is at most 0xFFF + 0xFF, so the 16-bit sum does not wrap (R114). -/
theorem toNat_addrOf_add_wordOfV (nnn : Addr) (s : State) (x : Nibble) :
    (addrOf nnn + wordOfV s x : Word).toNat = nnn.toNat + (s.getV x).toNat := by
  have target : nnn.toNat < 0x1000 := nnn.isLt
  have offset : (s.getV x).toNat < 0x100 := s.getV_lt x
  rw [BitVec.toNat_add, toNat_addrOf, toNat_wordOfV, Nat.mod_eq_of_lt (by omega)]

/-- Settles O18: row 0 below 0x100 holds only CLS and RET, the words of the three jumps decode to them, and each jump
is one write of pc whose target fits in 16 bits. -/
theorem jumpsSetPc : Obligations.JumpsSetPc := by
  refine ⟨?invalid, ?fetch, ?sys, ?jp, ?jpV0, ?effects⟩
  case invalid =>
    intro w low notCls notRet
    exact ⟨_, decode_ofNat_of_lt_0x100 low notCls notRet⟩
  case fetch =>
    intro s exceeds
    exact ⟨_, fetch16_of_exceeds exceeds, rfl⟩
  case sys =>
    intro nnn high
    have word : BitVec.ofNat 16 nnn.toNat = packNNN 0x0 nnn := ofNat_eq_packNNN (Nat.zero_add _).symm
    rw [word, decode_packNNN_sys high]
  case jp =>
    intro nnn
    have word : BitVec.ofNat 16 (0x1000 + nnn.toNat) = packNNN 0x1 nnn := ofNat_eq_packNNN rfl
    rw [word, decode_packNNN_jp]
  case jpV0 =>
    intro nnn
    have word : BitVec.ofNat 16 (0xB000 + nnn.toNat) = packNNN 0xB nnn := ofNat_eq_packNNN rfl
    rw [word, decode_packNNN_jpV0]
  case effects =>
    intro s nnn
    refine ⟨fun _ => ?sys, ?jp, ?jpV0⟩
    case sys => exact ⟨_, exec_sys nnn s, toNat_addrOf nnn, frame_setPc s _⟩
    case jp => exact ⟨_, exec_jp nnn s, toNat_addrOf nnn, frame_setPc s _⟩
    case jpV0 => exact ⟨_, exec_jpV0 nnn s, toNat_addrOf_add_wordOfV nnn s 0, frame_setPc s _⟩

end Sys2Proof.Machine
end

section
/-! SUPPORT and RESULTS. The skips SE and SNE with an immediate and SE of two registers: their words
(spec/30_encoding.md R71, R72, R82) and their effect (spec/42_skip.md R120-R123). -/

namespace Sys2Proof

/-- Two bit fields side by side are two digits: the lower field, and above it the upper one in base 2 ^ n. -/
theorem toNat_append_eq_add {m n : Nat} (upper : BitVec m) (lower : BitVec n) :
    (upper ++ lower).toNat = 2 ^ n * upper.toNat + lower.toNat := by
  rw [BitVec.toNat_append, ← Nat.shiftLeft_add_eq_or_of_lt lower.isLt, Nat.shiftLeft_eq, Nat.mul_comm]

theorem toNat_packXKK (t x : Nibble) (kk : Byte) :
    (packXKK t x kk).toNat = 0x1000 * t.toNat + 0x100 * x.toNat + kk.toNat := by
  rw [packXKK, BitVec.toNat_cast, toNat_append_eq_add, toNat_append_eq_add]
  omega

theorem toNat_packXYN (t x y n : Nibble) :
    (packXYN t x y n).toNat = 0x1000 * t.toNat + 0x100 * x.toNat + 0x10 * y.toNat + n.toNat := by
  rw [packXYN, BitVec.toNat_cast, toNat_append_eq_add, toNat_append_eq_add, toNat_append_eq_add]
  omega

theorem ofNat_eq_packXKK {w : Nat} {t x : Nibble} {kk : Byte}
    (digits : w = 0x1000 * t.toNat + 0x100 * x.toNat + kk.toNat) : BitVec.ofNat 16 w = packXKK t x kk := by
  rw [digits, ← toNat_packXKK, BitVec.ofNat_toNat, BitVec.setWidth_eq]

theorem ofNat_eq_packXYN {w : Nat} {t x y n : Nibble}
    (digits : w = 0x1000 * t.toNat + 0x100 * x.toNat + 0x10 * y.toNat + n.toNat) :
    BitVec.ofNat 16 w = packXYN t x y n := by
  rw [digits, ← toNat_packXYN, BitVec.ofNat_toNat, BitVec.setWidth_eq]

theorem decode_packXKK_seImm (x : Nibble) (kk : Byte) : decode (packXKK 0x3 x kk) = .ok (.seImm x kk) := by
  simp [decode, decodeWith]

theorem decode_packXKK_sneImm (x : Nibble) (kk : Byte) : decode (packXKK 0x4 x kk) = .ok (.sneImm x kk) := by
  simp [decode, decodeWith]

/-- Row 5 never reads N (R82). -/
theorem decode_packXYN_seReg (x y n : Nibble) : decode (packXYN 0x5 x y n) = .ok (.seReg x y) := by
  simp [decode, decodeWith]

end Sys2Proof

namespace Sys2Proof.Machine

theorem skipIf_decide (c : Prop) [Decidable c] (s : State) :
    skipIf (decide c) s = s.setPc (if c then s.pc + 2 else s.pc) := by
  simp only [skipIf_eq, decide_eq_true_eq]

theorem exec_seImm (x : Nibble) (kk : Byte) (s : State) :
    exec (.seImm x kk) s = .next (s.setPc (if s.getV x = kk then s.pc + 2 else s.pc)) :=
  congrArg _ (skipIf_decide (s.getV x = kk) s)

theorem exec_sneImm (x : Nibble) (kk : Byte) (s : State) :
    exec (.sneImm x kk) s = .next (s.setPc (if s.getV x = kk then s.pc else s.pc + 2)) := by
  have skips : exec (.sneImm x kk) s = .next (s.setPc (if s.getV x ≠ kk then s.pc + 2 else s.pc)) :=
    congrArg _ (skipIf_decide (s.getV x ≠ kk) s)
  rw [skips, ite_not]

theorem exec_seReg (x y : Nibble) (s : State) :
    exec (.seReg x y) s = .next (s.setPc (if s.getV x = s.getV y then s.pc + 2 else s.pc)) :=
  congrArg _ (skipIf_decide (s.getV x = s.getV y) s)

/-- Settles O24: the numbers of the words are the digits of their formats, and each skip is one write of pc, whose
value the condition on V[X] selects. -/
theorem compareSkips : Obligations.CompareSkips := by
  refine ⟨?immediateWords, ?registerWords, ?effects⟩
  case immediateWords =>
    intro x kk
    have seWord : BitVec.ofNat 16 (0x3000 + x.toNat * 256 + kk.toNat) = packXKK 0x3 x kk :=
      ofNat_eq_packXKK (by rw [Nat.mul_comm]; rfl)
    have sneWord : BitVec.ofNat 16 (0x4000 + x.toNat * 256 + kk.toNat) = packXKK 0x4 x kk :=
      ofNat_eq_packXKK (by rw [Nat.mul_comm]; rfl)
    rw [seWord, sneWord]
    exact ⟨decode_packXKK_seImm x kk, decode_packXKK_sneImm x kk⟩
  case registerWords =>
    intro x y n
    have word : BitVec.ofNat 16 (0x5000 + x.toNat * 256 + y.toNat * 16 + n.toNat) = packXYN 0x5 x y n :=
      ofNat_eq_packXYN (by rw [Nat.mul_comm x.toNat, Nat.mul_comm y.toNat]; rfl)
    rw [word, decode_packXYN_seReg]
  case effects =>
    intro s x y kk
    refine ⟨?seImm, ?sneImm, ?seReg⟩
    case seImm => exact ⟨_, exec_seImm x kk s, s.setPc_pc _, frame_setPc s _⟩
    case sneImm => exact ⟨_, exec_sneImm x kk s, s.setPc_pc _, frame_setPc s _⟩
    case seReg => exact ⟨_, exec_seReg x y s, s.setPc_pc _, frame_setPc s _⟩

end Sys2Proof.Machine
end

section
/-! SUPPORT and RESULTS. LD immediate, ADD immediate and LD register: their words (spec/30_encoding.md R71, R72) and
their effect (spec/43_alu.md R131-R133). -/

namespace Sys2Proof

theorem decode_packXKK_ldImm (x : Nibble) (kk : Byte) : decode (packXKK 0x6 x kk) = .ok (.ldImm x kk) := by
  simp [decode, decodeWith]

theorem decode_packXKK_addImm (x : Nibble) (kk : Byte) : decode (packXKK 0x7 x kk) = .ok (.addImm x kk) := by
  simp [decode, decodeWith]

/-- Row 8 selects LD register by N = 0. -/
theorem decode_packXYN_ldReg (x y : Nibble) : decode (packXYN 0x8 x y 0x0) = .ok (.ldReg x y) := by
  simp [decode, decodeWith, decodeEight]

end Sys2Proof

namespace Sys2Proof.Machine

theorem exec_ldImm (x : Nibble) (kk : Byte) (s : State) : exec (.ldImm x kk) s = .next (s.setV x kk) := rfl

theorem exec_addImm (x : Nibble) (kk : Byte) (s : State) :
    exec (.addImm x kk) s = .next (s.setV x (s.getV x + kk)) := rfl

theorem exec_ldReg (x y : Nibble) (s : State) : exec (.ldReg x y) s = .next (s.setV x (s.getV y)) := rfl

/-- Settles O27: the numbers of the words are the digits of their formats, and each instruction is one write of V[X],
so VF changes only when it is the register written; the sum of 8-bit registers wraps at 256. -/
theorem loadsAndAddImmediate : Obligations.LoadsAndAddImmediate := by
  refine ⟨?immediateWords, ?registerWords, ?effects⟩
  case immediateWords =>
    intro x kk
    have ldWord : BitVec.ofNat 16 (0x6000 + x.toNat * 256 + kk.toNat) = packXKK 0x6 x kk :=
      ofNat_eq_packXKK (by rw [Nat.mul_comm]; rfl)
    have addWord : BitVec.ofNat 16 (0x7000 + x.toNat * 256 + kk.toNat) = packXKK 0x7 x kk :=
      ofNat_eq_packXKK (by rw [Nat.mul_comm]; rfl)
    rw [ldWord, addWord]
    exact ⟨decode_packXKK_ldImm x kk, decode_packXKK_addImm x kk⟩
  case registerWords =>
    intro x y
    have word : BitVec.ofNat 16 (0x8000 + x.toNat * 256 + y.toNat * 16) = packXYN 0x8 x y 0x0 :=
      ofNat_eq_packXYN (by rw [Nat.mul_comm x.toNat, Nat.mul_comm y.toNat]; rfl)
    rw [word, decode_packXYN_ldReg]
  case effects =>
    intro s x y kk
    refine ⟨?ldImm, ?addImm, ?ldReg⟩
    case ldImm => exact ⟨_, exec_ldImm x kk s, s.getV_setV_same x _, frame_setV s x _⟩
    case addImm =>
      have sum : ((s.setV x (s.getV x + kk)).getV x).toNat = ((s.getV x).toNat + kk.toNat) % 256 := by
        rw [State.getV_setV_same]
        exact BitVec.toNat_add _ _
      exact ⟨_, exec_addImm x kk s, sum, frame_setV s x _⟩
    case ldReg => exact ⟨_, exec_ldReg x y s, s.getV_setV_same x _, frame_setV s x _⟩

end Sys2Proof.Machine
end

section
/-! SUPPORT and RESULTS. LD I and LD F: their words (spec/30_encoding.md R71, R72) and their effect
(spec/44_index_memory.md R151, R153). -/

namespace Sys2Proof

theorem decode_packNNN_ldI (nnn : Addr) : decode (packNNN 0xA nnn) = .ok (.ldI nnn) := by
  simp [decode, decodeWith]

/-- Row F selects LD F by KK = 0x29. -/
theorem decode_packXKK_ldFVx (x : Nibble) : decode (packXKK 0xF x 0x29) = .ok (.ldFVx x) := by
  simp [decode, decodeWith, decodeF]

end Sys2Proof

namespace Sys2Proof.Machine

theorem exec_ldI (nnn : Addr) (s : State) : exec (.ldI nnn) s = .next (s.setI (addrOf nnn)) := rfl

theorem exec_ldFVx (x : Nibble) (s : State) : exec (.ldFVx x) s = .next (s.setI (glyphAddr (wordOfV s x))) := rfl

/-- The font starts at address 0, so the base of a glyph is the product alone (R29, R153). -/
theorem glyphAddr_eq_mul_five (b : IReg) : glyphAddr b = b * 5 :=
  BitVec.zero_add (b * 5)

/-- The largest byte gives 0xFF * 5, so the 16-bit product does not wrap (R153). -/
theorem toNat_glyphAddr_wordOfV (s : State) (x : Nibble) :
    (glyphAddr (wordOfV s x)).toNat = (s.getV x).toNat * 5 := by
  have selector : (s.getV x).toNat < 0x100 := s.getV_lt x
  have product : (wordOfV s x * 5 : IReg).toNat = (s.getV x).toNat * 5 % 0x10000 := by
    rw [BitVec.toNat_mul, toNat_wordOfV]
    rfl
  rw [glyphAddr_eq_mul_five, product, Nat.mod_eq_of_lt (by omega)]

/-- Settles O33: the numbers of the words are the digits of their formats, and each load is one write of I, whose value
fits in 16 bits. -/
theorem indexLoads : Obligations.IndexLoads := by
  refine ⟨?ldIWord, ?ldFWord, ?effects⟩
  case ldIWord =>
    intro nnn
    have word : BitVec.ofNat 16 (0xA000 + nnn.toNat) = packNNN 0xA nnn := ofNat_eq_packNNN rfl
    rw [word, decode_packNNN_ldI]
  case ldFWord =>
    intro x
    have digits : 0xF029 + x.toNat * 256 = 0xF000 + 0x100 * x.toNat + 0x29 := by omega
    have word : BitVec.ofNat 16 (0xF029 + x.toNat * 256) = packXKK 0xF x 0x29 := ofNat_eq_packXKK digits
    rw [word, decode_packXKK_ldFVx]
  case effects =>
    intro s nnn x
    refine ⟨?ldI, ?ldF⟩
    case ldI => exact ⟨_, exec_ldI nnn s, toNat_addrOf nnn, frame_setI s _⟩
    case ldF => exact ⟨_, exec_ldFVx x s, toNat_glyphAddr_wordOfV s x, frame_setI s _⟩

end Sys2Proof.Machine
end

section
/-! SUPPORT and RESULTS. The decoder against the encoder, and the words it rejects (spec/30_encoding.md R71-R76,
R81-R84). -/

namespace Sys2Proof

/-! ## The fields as digits of the word (R71) -/

theorem toNat_fieldY (op : Word) : (fieldY op).toNat = op.toNat / 0x10 % 16 := by
  rw [fieldY, BitVec.extractLsb'_toNat, Nat.shiftRight_eq_div_pow]

theorem toNat_fieldN (op : Word) : (fieldN op).toNat = op.toNat % 16 := by
  rw [fieldN, BitVec.extractLsb'_toNat, Nat.shiftRight_zero]

theorem toNat_fieldKK (op : Word) : (fieldKK op).toNat = op.toNat % 256 := by
  rw [fieldKK, BitVec.extractLsb'_toNat, Nat.shiftRight_zero]

theorem toNat_fieldNNN (op : Word) : (fieldNNN op).toNat = op.toNat % 4096 := by
  rw [fieldNNN, BitVec.extractLsb'_toNat, Nat.shiftRight_zero]

theorem fieldT_eq_iff {op : Word} {t : Nibble} : fieldT op = t ↔ op.toNat / 4096 = t.toNat := by
  rw [BitVec.toNat_eq, toNat_fieldT]

theorem fieldX_eq_iff {op : Word} {x : Nibble} : fieldX op = x ↔ op.toNat / 256 % 16 = x.toNat := by
  rw [BitVec.toNat_eq, toNat_fieldX]

theorem fieldN_eq_iff {op : Word} {n : Nibble} : fieldN op = n ↔ op.toNat % 16 = n.toNat := by
  rw [BitVec.toNat_eq, toNat_fieldN]

theorem fieldKK_eq_iff {op : Word} {kk : Byte} : fieldKK op = kk ↔ op.toNat % 256 = kk.toNat := by
  rw [BitVec.toNat_eq, toNat_fieldKK]

/-! ## A word is the packing of its fields (R72) -/

theorem packNNN_of_fields {op : Word} {t : Nibble} (top : fieldT op = t) : packNNN t (fieldNNN op) = op := by
  apply BitVec.eq_of_toNat_eq
  rw [toNat_packNNN, ← top, toNat_fieldT, toNat_fieldNNN]
  omega

theorem packXKK_of_fields {op : Word} {t : Nibble} {kk : Byte} (top : fieldT op = t) (low : fieldKK op = kk) :
    packXKK t (fieldX op) kk = op := by
  apply BitVec.eq_of_toNat_eq
  rw [toNat_packXKK, ← top, ← low, toNat_fieldT, toNat_fieldX, toNat_fieldKK]
  omega

theorem packXYN_of_fields {op : Word} {t n : Nibble} (top : fieldT op = t) (low : fieldN op = n) :
    packXYN t (fieldX op) (fieldY op) n = op := by
  apply BitVec.eq_of_toNat_eq
  rw [toNat_packXYN, ← top, ← low, toNat_fieldT, toNat_fieldX, toNat_fieldY, toNat_fieldN]
  omega

/-! ## Decoding an encoding -/

theorem decode_of_rowEight {op : Word} (top : fieldT op = 0x8) : decode op = decodeEight op := by
  simp [decode, decodeWith, top]

theorem decode_of_rowE {op : Word} (top : fieldT op = 0xE) : decode op = decodeE op := by
  simp [decode, decodeWith, top]

theorem decode_of_rowF {op : Word} (top : fieldT op = 0xF) : decode op = decodeF op := by
  simp [decode, decodeWith, top]

/-- With the parameter clear, row 9 tests N alone (R83). -/
theorem decodeNine_false (op : Word) :
    decodeNine false op = if fieldN op = 0x0 then .ok (.sneReg (fieldX op) (fieldY op)) else .error .nineRow := by
  simp [decodeNine]

theorem decode_encode {i : Instr} (wf : i.wellFormed = true) : decode (encode i) = .ok i := by
  cases i
  case cls | ret => rfl
  case sys nnn => exact decode_packNNN_sys (of_decide_eq_true wf)
  case jp | call | ldI | jpV0 => simp [encode, decode, decodeWith]
  case seImm | sneImm | ldImm | addImm | rnd => simp [encode, decode, decodeWith]
  case seReg | drw => simp [encode, decode, decodeWith]
  case ldReg | or | and | xor | addReg | sub | shr | subn | shl =>
    simp [encode, decode_of_rowEight, decodeEight]
  case sneReg => simp [encode, decode, decodeWith, decodeNine]
  case skp | sknp => simp [encode, decode_of_rowE, decodeE]
  case ldVxDt | ldVxK | ldDtVx | ldStVx | addIVx | ldFVx | ldBVx | ldMemVx | ldVxMem =>
    simp [encode, decode_of_rowF, decodeF]

/-- The byte decoder reads the first two bytes as one word and leaves the rest (R70). -/
theorem decodeBytes_bytesOfWord {w : Word} {i : Instr} (rest : List Byte) (decoded : decode w = .ok i) :
    decodeBytes (bytesOfWord w ++ rest) = .ok (i, rest) := by
  simp only [bytesOfWord, List.cons_append, List.nil_append, decodeBytes, wordOfBytes_bytesOfWord, decoded]

/-- Settles O2: each row's selector finds the constants that the encoder put in, and the two bytes of a word put
together again are the word. -/
theorem encodeThenDecode : Obligations.EncodeThenDecode := by
  intro i rest wf
  exact ⟨decode_encode wf, decodeBytes_bytesOfWord rest (decode_encode wf)⟩

/-! ## Encoding what was decoded -/

/-- Row 0: SYS is answered only when op[11:8] is not 0, which makes its NNN at least 0x100 (R81). -/
theorem encode_of_decodeZero {op : Word} {i : Instr} (top : fieldT op = 0x0) (decoded : decodeZero op = .ok i) :
    i.wellFormed = true ∧ encode i = op := by
  unfold decodeZero at decoded
  split_ifs at decoded with isCls isRet hasX <;> cases decoded
  · exact ⟨rfl, isCls.symm⟩
  · exact ⟨rfl, isRet.symm⟩
  · have digit : op.toNat / 256 % 16 ≠ 0 := fun noX => hasX (fieldX_eq_iff.2 noX)
    have high : 0x100 ≤ (fieldNNN op).toNat := by
      rw [toNat_fieldNNN]
      omega
    exact ⟨decide_eq_true high, packNNN_of_fields top⟩

theorem encode_of_decodeEight {op : Word} {i : Instr} (top : fieldT op = 0x8) (decoded : decodeEight op = .ok i) :
    i.wellFormed = true ∧ encode i = op := by
  unfold decodeEight at decoded
  split_ifs at decoded with n0 n1 n2 n3 n4 n5 n6 n7 nE <;> cases decoded
  · exact ⟨rfl, packXYN_of_fields top n0⟩
  · exact ⟨rfl, packXYN_of_fields top n1⟩
  · exact ⟨rfl, packXYN_of_fields top n2⟩
  · exact ⟨rfl, packXYN_of_fields top n3⟩
  · exact ⟨rfl, packXYN_of_fields top n4⟩
  · exact ⟨rfl, packXYN_of_fields top n5⟩
  · exact ⟨rfl, packXYN_of_fields top n6⟩
  · exact ⟨rfl, packXYN_of_fields top n7⟩
  · exact ⟨rfl, packXYN_of_fields top nE⟩

/-- Row 9 with the parameter clear: N is 0 (R83). -/
theorem encode_of_decodeNine {op : Word} {i : Instr} (top : fieldT op = 0x9) (decoded : decodeNine false op = .ok i) :
    i.wellFormed = true ∧ encode i = op := by
  rw [decodeNine_false] at decoded
  split_ifs at decoded with n0
  cases decoded
  exact ⟨rfl, packXYN_of_fields top n0⟩

theorem encode_of_decodeE {op : Word} {i : Instr} (top : fieldT op = 0xE) (decoded : decodeE op = .ok i) :
    i.wellFormed = true ∧ encode i = op := by
  unfold decodeE at decoded
  split_ifs at decoded with k9E kA1 <;> cases decoded
  · exact ⟨rfl, packXKK_of_fields top k9E⟩
  · exact ⟨rfl, packXKK_of_fields top kA1⟩

theorem encode_of_decodeF {op : Word} {i : Instr} (top : fieldT op = 0xF) (decoded : decodeF op = .ok i) :
    i.wellFormed = true ∧ encode i = op := by
  unfold decodeF at decoded
  split_ifs at decoded with k07 k0A k15 k18 k1E k29 k33 k55 k65 <;> cases decoded
  · exact ⟨rfl, packXKK_of_fields top k07⟩
  · exact ⟨rfl, packXKK_of_fields top k0A⟩
  · exact ⟨rfl, packXKK_of_fields top k15⟩
  · exact ⟨rfl, packXKK_of_fields top k18⟩
  · exact ⟨rfl, packXKK_of_fields top k1E⟩
  · exact ⟨rfl, packXKK_of_fields top k29⟩
  · exact ⟨rfl, packXKK_of_fields top k33⟩
  · exact ⟨rfl, packXKK_of_fields top k55⟩
  · exact ⟨rfl, packXKK_of_fields top k65⟩

/-- Only row 5 has more than one word for an instruction (R82, R84). -/
theorem encode_of_decode {op : Word} {i : Instr} (decoded : decode op = .ok i) :
    i.wellFormed = true ∧ (encode i = op ∨ (fieldT op = 0x5 ∧ i = .seReg (fieldX op) (fieldY op))) := by
  suffices onlyWord : fieldT op ≠ 0x5 → i.wellFormed = true ∧ encode i = op by
    by_cases top : fieldT op = 0x5
    · have isSe : i = .seReg (fieldX op) (fieldY op) := by
        simpa [decode, decodeWith, top, eq_comm] using decoded
      exact ⟨isSe ▸ rfl, .inr ⟨top, isSe⟩⟩
    · exact (onlyWord top).imp_right .inl
  intro notRowFive
  simp only [decode, decodeWith, ite_eq_iff, Except.ok.injEq] at decoded
  rcases decoded with ⟨top, row⟩ | ⟨not0, ⟨top, rfl⟩ | ⟨not1, ⟨top, rfl⟩ | ⟨not2, ⟨top, rfl⟩ | ⟨not3, ⟨top, rfl⟩ |
    ⟨not4, ⟨top, -⟩ | ⟨not5, ⟨top, rfl⟩ | ⟨not6, ⟨top, rfl⟩ | ⟨not7, ⟨top, row⟩ | ⟨not8, ⟨top, row⟩ | ⟨not9, ⟨top, rfl⟩ |
    ⟨notA, ⟨top, rfl⟩ | ⟨notB, ⟨top, rfl⟩ | ⟨notC, ⟨top, rfl⟩ | ⟨notD, ⟨top, row⟩ | ⟨notE, row⟩⟩⟩⟩⟩⟩⟩⟩⟩⟩⟩⟩⟩⟩⟩
  · exact encode_of_decodeZero top row
  · exact ⟨rfl, packNNN_of_fields top⟩
  · exact ⟨rfl, packNNN_of_fields top⟩
  · exact ⟨rfl, packXKK_of_fields top rfl⟩
  · exact ⟨rfl, packXKK_of_fields top rfl⟩
  · exact absurd top notRowFive
  · exact ⟨rfl, packXKK_of_fields top rfl⟩
  · exact ⟨rfl, packXKK_of_fields top rfl⟩
  · exact encode_of_decodeEight top row
  · exact encode_of_decodeNine top row
  · exact ⟨rfl, packNNN_of_fields top⟩
  · exact ⟨rfl, packNNN_of_fields top⟩
  · exact ⟨rfl, packXKK_of_fields top rfl⟩
  · exact ⟨rfl, packXYN_of_fields top rfl⟩
  · exact encode_of_decodeE top row
  · have top : fieldT op = 0xF := by
      clear row
      bv_omega
    exact encode_of_decodeF top row

/-- The encoding of SE Vx, Vy has N = 0, so it is the word rounded down to a multiple of 16 (R82). -/
theorem toNat_encode_seReg_of_fields {op : Word} (top : fieldT op = 0x5) :
    (encode (.seReg (fieldX op) (fieldY op))).toNat = op.toNat / 16 * 16 := by
  have row : op.toNat / 4096 = 5 := fieldT_eq_iff.1 top
  have digits := toNat_packXYN 0x5 (fieldX op) (fieldY op) 0x0
  rw [toNat_fieldX, toNat_fieldY] at digits
  rw [encode, digits]
  simp
  omega

/-- Settles O3: every branch of the decoder reads the fields that the encoder packs, and tests the constants that it
puts in; only row 5 leaves N untested. -/
theorem decodeThenEncode : Obligations.DecodeThenEncode := by
  intro op i decoded
  obtain ⟨wf, sameWord | ⟨top, rfl⟩⟩ := encode_of_decode decoded
  · exact ⟨wf, .inl sameWord⟩
  · exact ⟨wf, .inr ⟨fieldT_eq_iff.1 top, toNat_encode_seReg_of_fields top⟩⟩

/-! ## The rejected words (R76) -/

/-- The decoder's answer is no instruction. -/
def Rejects (answer : Except Reject Instr) : Prop := ∃ e, answer = .error e

@[simp] theorem not_rejects_ok (i : Instr) : ¬ Rejects (.ok i) := fun ⟨_, impossible⟩ => nomatch impossible

@[simp] theorem rejects_error (e : Reject) : Rejects (.error e) := ⟨e, rfl⟩

theorem rejects_ite (c : Prop) [Decidable c] (a b : Except Reject Instr) :
    Rejects (if c then a else b) ↔ (c ∧ Rejects a) ∨ (¬ c ∧ Rejects b) := by
  split <;> simp [*]

theorem rejects_decodeZero_iff {op : Word} (top : op.toNat / 4096 = 0) :
    Rejects (decodeZero op) ↔ op.toNat < 0x100 ∧ op.toNat ≠ 0xE0 ∧ op.toNat ≠ 0xEE := by
  simp [decodeZero, rejects_ite, BitVec.toNat_eq, toNat_fieldX]
  omega

theorem rejects_decodeEight_iff (op : Word) :
    Rejects (decodeEight op) ↔ op.toNat % 16 ∈ [0x8, 0x9, 0xA, 0xB, 0xC, 0xD, 0xF] := by
  simp [decodeEight, rejects_ite, fieldN_eq_iff]
  omega

theorem rejects_decodeNine_iff (op : Word) : Rejects (decodeNine false op) ↔ op.toNat % 16 ≠ 0 := by
  simp [decodeNine_false, rejects_ite, fieldN_eq_iff]

theorem rejects_decodeE_iff (op : Word) : Rejects (decodeE op) ↔ op.toNat % 256 ≠ 0x9E ∧ op.toNat % 256 ≠ 0xA1 := by
  simp [decodeE, rejects_ite, fieldKK_eq_iff]

theorem rejects_decodeF_iff (op : Word) :
    Rejects (decodeF op) ↔ op.toNat % 256 ∉ [0x07, 0x0A, 0x15, 0x18, 0x1E, 0x29, 0x33, 0x55, 0x65] := by
  simp [decodeF, rejects_ite, fieldKK_eq_iff]

/-- Only rows 0, 8, 9, E and F reject words, each by its own selector. -/
theorem rejects_decode_iff (op : Word) :
    Rejects (decode op) ↔
      (op.toNat / 4096 = 0 ∧ Rejects (decodeZero op)) ∨ (op.toNat / 4096 = 8 ∧ Rejects (decodeEight op)) ∨
      (op.toNat / 4096 = 9 ∧ Rejects (decodeNine false op)) ∨ (op.toNat / 4096 = 0xE ∧ Rejects (decodeE op)) ∨
      (op.toNat / 4096 = 0xF ∧ Rejects (decodeF op)) := by
  have below : op.toNat / 4096 < 16 := Nat.div_lt_of_lt_mul op.isLt
  simp only [decode, decodeWith, fieldT_eq_iff, Machine.params_sneRegAnyN]
  generalize op.toNat / 4096 = t at below ⊢
  interval_cases t <;> simp

/-- Settles O4: the row of a word chooses the selector, and each selector's tests are the table's class of that row. -/
theorem invalidWordsAreRejected : Obligations.InvalidWordsAreRejected := by
  intro op
  have zeroRow : op.toNat / 4096 = 0 ∧ Rejects (decodeZero op) ↔
      op.toNat < 0x100 ∧ op.toNat ≠ 0xE0 ∧ op.toNat ≠ 0xEE := by
    constructor
    · rintro ⟨top, rejects⟩
      exact (rejects_decodeZero_iff top).1 rejects
    · intro low
      have top : op.toNat / 4096 = 0 := by omega
      exact ⟨top, (rejects_decodeZero_iff top).2 low⟩
  have rows := rejects_decode_iff op
  rwa [zeroRow, rejects_decodeEight_iff, rejects_decodeNine_iff, rejects_decodeE_iff, rejects_decodeF_iff] at rows

/-! ## The parameter of row 9 (R83) -/

theorem decodeWith_of_rowNine (anyN : Bool) {op : Word} (top : fieldT op = 0x9) :
    decodeWith anyN op = decodeNine anyN op := by
  simp [decodeWith, top]

/-- Outside row 9 no branch of the decoder reads the parameter. -/
theorem decodeWith_eq_of_not_rowNine {op : Word} (otherRow : fieldT op ≠ 0x9) (anyN anyN' : Bool) :
    decodeWith anyN op = decodeWith anyN' op := by
  simp only [decodeWith, if_neg otherRow]

/-- Settles O5: the parameter is read in row 9 only, where it makes the test of N hold. -/
theorem sneRegAnyNParameter : Obligations.SneRegAnyNParameter := by
  intro op
  constructor
  · intro row
    rw [decodeWith_of_rowNine true (fieldT_eq_iff.2 row), decodeNine, if_pos (.inr rfl)]
  · intro otherRow
    exact decodeWith_eq_of_not_rowNine (fun top => otherRow (fieldT_eq_iff.1 top)) true false

/-- Settles O1: each of the nineteen words is run through the decoder. -/
theorem handWrittenWordsDecode : Obligations.HandWrittenWordsDecode := by
  unfold Obligations.HandWrittenWordsDecode
  decide

end Sys2Proof
end

section
/-! SUPPORT and RESULTS. What every instruction answers: one equation for each outcome of an instruction that can halt,
and the rules of the whole machine that follow from a single case split (spec/10_state.md R22; spec/60_exceptions.md
R202, R203, R205). -/

namespace Sys2Proof.Machine

/-! ## The instructions that can halt, an equation per outcome -/

theorem exec_ret_of_empty {s : State} (empty : s.sp.val = 0) :
    exec .ret s = raise ⟨.stackUnderflow, .stack 0⟩ (encode .ret) s := by
  rw [exec, execRet, pop_empty s empty]

theorem exists_entry_of_nonempty {s : State} (nonempty : s.sp.val ≠ 0) : ∃ k : Fin 17, k.val + 1 = s.sp.val := by
  have atMost : s.sp.val ≤ 16 := s.sp_le
  exact ⟨⟨s.sp.val - 1, by omega⟩, Nat.sub_add_cancel (Nat.pos_of_ne_zero nonempty)⟩

/-- The slot popped is the one below SP, which the new SP names (R28). -/
theorem exec_ret_of_entry {s : State} {k : Fin 17} (entry : k.val + 1 = s.sp.val) :
    exec .ret s = .next ((s.setStack s.stack k).setPc
      (s.stack[k.val]'(Nat.lt_of_succ_le (entry.trans_le s.sp_le)))) := by
  have below : s.sp.val - 1 = k.val := by omega
  rw [exec, execRet, pop_ok s (by omega)]
  simp only [below]

theorem exec_call_of_full {s : State} (nnn : Addr) (full : s.sp.val = 16) :
    exec (.call nnn) s = raise ⟨.stackOverflow, .stack 16⟩ (encode (.call nnn)) s := by
  rw [exec, execCall, push_full s s.pc full]

theorem exec_call_of_room {s : State} (nnn : Addr) (room : s.sp.val < 16) :
    exec (.call nnn) s = .next
      ((s.setStack (s.stack.set s.sp.val s.pc room) ⟨s.sp.val + 1, Nat.succ_lt_succ room⟩).setPc (addrOf nnn)) := by
  rw [exec, execCall, push_ok s s.pc room]

theorem exec_drw_of_exceeds {s : State} (x y : Nibble) {n : Nibble} (exceeds : 4096 < s.i.toNat + n.toNat) :
    exec (.drw x y n) s = raise ⟨.outOfBounds, .access s.i.toNat n.toNat⟩ (encode (.drw x y n)) s := by
  rw [exec, execDrw, memRead_eq, memAddr, if_neg (by omega)]

/-- The framebuffer and the collision bit that DRW computes from the rows at I (R101). -/
def drawnAtI (s : State) (x y n : Nibble) : Framebuffer × Bool :=
  fbDraw s.fb (s.getV x) (s.getV y) (s.mem.readBytes s.i.toNat n.toNat)

theorem exec_drw_of_fits {s : State} (x y : Nibble) {n : Nibble} (fits : s.i.toNat + n.toNat ≤ 4096) :
    exec (.drw x y n) s = .next
      ((s.setFb (drawnAtI s x y n).1).setV regF (flagByte (drawnAtI s x y n).2)) := by
  rw [exec, execDrw, memRead_eq, memAddr, if_pos fits]
  rfl

theorem exec_ldBVx_of_exceeds {s : State} (x : Nibble) (exceeds : 4096 < s.i.toNat + 3) :
    exec (.ldBVx x) s = raise ⟨.outOfBounds, .access s.i.toNat 3⟩ (encode (.ldBVx x)) s := by
  have len : (bcdDigits (s.getV x)).length = 3 := rfl
  rw [exec, execLdBVx, memWrite_eq, len, memAddr, if_neg (by omega)]

theorem exec_ldBVx_of_fits {s : State} (x : Nibble) (fits : s.i.toNat + 3 ≤ 4096) :
    exec (.ldBVx x) s = .next (s.setMem (s.mem.writeBytes s.i.toNat (bcdDigits (s.getV x)))) := by
  have len : (bcdDigits (s.getV x)).length = 3 := rfl
  rw [exec, execLdBVx, memWrite_eq, len, memAddr, if_pos fits]

/-- The bytes V0, ..., VX, which FX55 stores (R155). -/
def registersTo (s : State) (x : Nibble) : List Byte := s.v.toList.take (rangeCount x)

@[simp] theorem registersTo_length (s : State) (x : Nibble) : (registersTo s x).length = x.toNat + 1 :=
  take_v_length s x

theorem registersTo_getElem {s : State} {x r : Nibble} (upTo : r.toNat < (registersTo s x).length) :
    (registersTo s x)[r.toNat] = s.getV r :=
  take_v_getElem s x r upTo

/-- FX55 reads registers that exist (R23). -/
theorem readVRange_registersTo (s : State) (x : Nibble) : readVRange s 0 (rangeCount x) = .ok (registersTo s x) :=
  readVRange_zero s x

theorem exec_ldMemVx_of_exceeds {s : State} {x : Nibble} (exceeds : 4096 < s.i.toNat + (x.toNat + 1)) :
    exec (.ldMemVx x) s = raise ⟨.outOfBounds, .access s.i.toNat (x.toNat + 1)⟩ (encode (.ldMemVx x)) s := by
  rw [exec, execLdMemVx, readVRange_registersTo]
  simp only [memWrite_eq, registersTo_length, memAddr, if_neg (Nat.not_le_of_lt exceeds)]

theorem exec_ldMemVx_of_fits {s : State} {x : Nibble} (fits : s.i.toNat + (x.toNat + 1) ≤ 4096) :
    exec (.ldMemVx x) s = .next (s.setMem (s.mem.writeBytes s.i.toNat (registersTo s x))) := by
  rw [exec, execLdMemVx, readVRange_registersTo]
  simp only [memWrite_eq, registersTo_length, memAddr, if_pos fits]

theorem exec_ldVxMem_of_exceeds {s : State} {x : Nibble} (exceeds : 4096 < s.i.toNat + (x.toNat + 1)) :
    exec (.ldVxMem x) s = raise ⟨.outOfBounds, .access s.i.toNat (x.toNat + 1)⟩ (encode (.ldVxMem x)) s := by
  rw [exec, execLdVxMem, memRead_eq, memAddr, rangeCount, if_neg (by omega)]

theorem exec_ldVxMem_of_fits {s : State} {x : Nibble} (fits : s.i.toNat + (x.toNat + 1) ≤ 4096) :
    exec (.ldVxMem x) s = .next (s.putV 0 (s.mem.readBytes s.i.toNat (x.toNat + 1))) := by
  rw [exec, execLdVxMem, memRead_eq, memAddr, rangeCount, if_pos fits]
  simp only [writeVRange_zero s x (Memory.readBytes_length s.mem s.i.toNat (x.toNat + 1))]

/-! ## Every outcome of every instruction -/

theorem frame_skipIf (c : Bool) (s : State) : Frame (· = .pc) s (skipIf c s) := by
  rw [skipIf_eq]
  exact frame_setPc s _

theorem run_skipIf (c : Bool) (s : State) : (skipIf c s).run = s.run := by
  rw [skipIf_eq, State.setPc_run]

theorem putV_run (s : State) (k : Nat) (bs : List Byte) : (s.putV k bs).run = s.run := by
  rw [State.putV_eq]

/-- `t` is what the instruction `i` may leave when it does not halt: only its own parts differ, and the core goes on or
waits for a key. -/
structure Completes (i : Instr) (s t : State) : Prop where
  frame : Frame (writesOf s i) s t
  run : t.run = s.run ∨ ∃ x, t.run = .waitingKey x

/-- The two outcomes: the halt with the cause of the table of R203, or a next state of the instruction's own parts. -/
def Answers (i : Instr) (s : State) : Prop :=
  (∃ c info, haltCauseOf s i = some c ∧ exec i s = raise ⟨c, info⟩ (encode i) s) ∨
  (haltCauseOf s i = none ∧ ∃ t, exec i s = .next t ∧ Completes i s t)

theorem answers_ret (s : State) : Answers .ret s := by
  by_cases empty : s.sp.val = 0
  · exact .inl ⟨_, _, if_pos empty, exec_ret_of_empty empty⟩
  · obtain ⟨k, entry⟩ := exists_entry_of_nonempty empty
    have popped := (frame_setSp s k).mono (d := writesOf s .ret) fun _ isSp => .inr (.inl isSp)
    exact .inr ⟨if_neg empty, _, exec_ret_of_entry entry, popped.trans ((frame_setPc _ _).mono fun _ => .inl), .inl rfl⟩

theorem answers_call (nnn : Addr) (s : State) : Answers (.call nnn) s := by
  by_cases full : s.sp.val = 16
  · exact .inl ⟨_, _, if_pos full, exec_call_of_full nnn full⟩
  · have room : s.sp.val < 16 := Nat.lt_of_le_of_ne s.sp_le full
    have pushed := (frame_push s s.pc room).mono (d := writesOf s (.call nnn)) fun _ part =>
      part.elim (fun isSp => .inr (.inl isSp)) (fun isSlot => .inr (.inr (.inl isSlot)))
    exact .inr ⟨if_neg full, _, exec_call_of_room nnn room, pushed.trans ((frame_setPc _ _).mono fun _ => .inl), .inl rfl⟩

theorem answers_drw (x y n : Nibble) (s : State) : Answers (.drw x y n) s := by
  by_cases exceeds : 4096 < s.i.toNat + n.toNat
  · exact .inl ⟨_, _, if_pos exceeds, exec_drw_of_exceeds x y exceeds⟩
  · have drawn := (frame_setFb s (drawnAtI s x y n).1).mono (d := writesOf s (.drw x y n)) fun _ => .inl
    have flagged := (frame_setV (s.setFb (drawnAtI s x y n).1) regF (flagByte (drawnAtI s x y n).2)).mono
      (d := writesOf s (.drw x y n)) fun _ isF => .inr (.inl isF)
    exact .inr ⟨if_neg exceeds, _, exec_drw_of_fits x y (Nat.le_of_not_lt exceeds), drawn.trans flagged, .inl rfl⟩

theorem answers_ldBVx (x : Nibble) (s : State) : Answers (.ldBVx x) s := by
  by_cases exceeds : 4096 < s.i.toNat + 3
  · exact .inl ⟨_, _, if_pos exceeds, exec_ldBVx_of_exceeds x exceeds⟩
  · have frame := (frame_writeBytes s s.i.toNat (bcdDigits (s.getV x))).mono (d := writesOf s (.ldBVx x)) fun _ => .inl
    exact .inr ⟨if_neg exceeds, _, exec_ldBVx_of_fits x (Nat.le_of_not_lt exceeds), frame, .inl rfl⟩

/-- FX55 changes the bytes of its span (R155). -/
theorem frame_storeRegisters (s : State) (x : Nibble) :
    Frame (fun p => ∃ a, p = .byte a ∧ s.i.toNat ≤ a ∧ a < s.i.toNat + (x.toNat + 1)) s
      (s.setMem (s.mem.writeBytes s.i.toNat (registersTo s x))) := by
  simpa only [registersTo_length] using frame_writeBytes s s.i.toNat (registersTo s x)

theorem answers_ldMemVx (x : Nibble) (s : State) : Answers (.ldMemVx x) s := by
  by_cases exceeds : 4096 < s.i.toNat + x.toNat + 1
  · exact .inl ⟨_, _, if_pos exceeds, exec_ldMemVx_of_exceeds exceeds⟩
  · have frame := (frame_storeRegisters s x).mono (d := writesOf s (.ldMemVx x)) fun _ => .inl
    exact .inr ⟨if_neg exceeds, _, exec_ldMemVx_of_fits (Nat.le_of_not_lt exceeds), frame, .inl rfl⟩

/-- FX65 changes the registers V0, ..., VX (R156). -/
theorem frame_loadRegisters (s : State) (a : Nat) (x : Nibble) :
    Frame (fun p => ∃ r, p = .reg r ∧ r.toNat ≤ x.toNat) s (s.putV 0 (s.mem.readBytes a (x.toNat + 1))) := by
  simpa only [Memory.readBytes_length, Nat.lt_succ_iff] using frame_putV s (s.mem.readBytes a (x.toNat + 1))

theorem answers_ldVxMem (x : Nibble) (s : State) : Answers (.ldVxMem x) s := by
  by_cases exceeds : 4096 < s.i.toNat + x.toNat + 1
  · exact .inl ⟨_, _, if_pos exceeds, exec_ldVxMem_of_exceeds exceeds⟩
  · have frame := (frame_loadRegisters s s.i.toNat x).mono (d := writesOf s (.ldVxMem x)) fun _ => .inl
    exact .inr ⟨if_neg exceeds, _, exec_ldVxMem_of_fits (Nat.le_of_not_lt exceeds), frame, .inl (putV_run s 0 _)⟩

/-- An instruction outside the table of R203 is one update of the state, which writes its own parts. -/
theorem exec_answers (i : Instr) (s : State) : Answers i s := by
  cases i
  case ret => exact answers_ret s
  case call nnn => exact answers_call nnn s
  case drw x y n => exact answers_drw x y n s
  case ldBVx x => exact answers_ldBVx x s
  case ldMemVx x => exact answers_ldMemVx x s
  case ldVxMem x => exact answers_ldVxMem x s
  case cls => exact .inr ⟨rfl, _, rfl, frame_setFb s _, .inl rfl⟩
  case sys | jp | jpV0 => exact .inr ⟨rfl, _, rfl, frame_setPc s _, .inl rfl⟩
  case seImm | sneImm | seReg | sneReg | skp | sknp =>
    exact .inr ⟨rfl, _, rfl, frame_skipIf _ s, .inl (run_skipIf _ s)⟩
  case ldImm | addImm | ldReg | or | and | xor | ldVxDt => exact .inr ⟨rfl, _, rfl, frame_setV s _ _, .inl rfl⟩
  case addReg | sub | shr | subn | shl => exact .inr ⟨rfl, _, rfl, frame_writeRF s _ _ _, .inl rfl⟩
  case rnd x kk =>
    have frame : Frame (writesOf s (.rnd x kk)) s (rndWith (params.rng s.draws) x kk s) :=
      ((frame_setV s x _).mono fun _ => .inl).trans ((frame_drawn _).mono fun _ => .inr)
    exact .inr ⟨rfl, _, rfl, frame, .inl rfl⟩
  case ldVxK x => exact .inr ⟨rfl, _, rfl, frame_setRun s _, .inr ⟨x, rfl⟩⟩
  case ldDtVx => exact .inr ⟨rfl, _, rfl, frame_setDt s _, .inl rfl⟩
  case ldStVx => exact .inr ⟨rfl, _, rfl, frame_setSt s _, .inl rfl⟩
  case ldI | addIVx | ldFVx => exact .inr ⟨rfl, _, rfl, frame_setI s _, .inl rfl⟩

/-! ## The rules that follow -/

/-- Settles O49: a halt is a next state too. -/
theorem everyInstructionAnswers : Obligations.EveryInstructionAnswers := by
  intro i s
  obtain ⟨c, info, -, halts⟩ | ⟨-, t, answer, -⟩ := exec_answers i s
  · exact ⟨_, halts⟩
  · exact ⟨t, answer⟩

/-- An instruction of the table of R203 may write run. -/
theorem writesOf_run_of_haltCauseOf {s : State} {i : Instr} {c : Cause} (halts : haltCauseOf s i = some c) :
    writesOf s i .run := by
  cases i
  case ret => exact .inr (.inr rfl)
  case call => exact .inr (.inr (.inr rfl))
  case drw => exact .inr (.inr rfl)
  case ldBVx | ldMemVx | ldVxMem => exact .inr rfl
  all_goals exact nomatch halts

/-- Settles O50: a completed instruction writes its own parts, and a halt writes run, which is among them. -/
theorem instructionsWriteOnlyTheirParts : Obligations.InstructionsWriteOnlyTheirParts := by
  intro i s t answer
  obtain ⟨c, info, halts, raised⟩ | ⟨-, u, next, completes⟩ := exec_answers i s
  · obtain rfl := Host.Outcome.next.inj (raised.symm.trans answer)
    have mayHalt : ∀ p, p = .run → writesOf s i p := fun _ isRun => isRun ▸ writesOf_run_of_haltCauseOf halts
    exact (frame_setRun s _).mono mayHalt
  · obtain rfl := Host.Outcome.next.inj (next.symm.trans answer)
    exact completes.frame

/-- Settles O51: the table's cause is the one raised, and a completed instruction leaves the core running or waiting. -/
theorem haltsExactlyAsTabled : Obligations.HaltsExactlyAsTabled := by
  intro i s t running answer
  obtain ⟨c, info, halts, raised⟩ | ⟨noHalt, u, next, completes⟩ := exec_answers i s
  · obtain rfl := Host.Outcome.next.inj (raised.symm.trans answer)
    rw [halts]
    exact ⟨frame_setRun s _, _, rfl, rfl, rfl, rfl⟩
  · obtain rfl := Host.Outcome.next.inj (next.symm.trans answer)
    rw [noHalt]
    intro record halted
    obtain same | ⟨x, waits⟩ := completes.run
    · exact nomatch halted.symm.trans (same.trans running)
    · exact nomatch halted.symm.trans waits

theorem skipIf_setSt (c : Bool) (s : State) (b : Byte) : skipIf c (s.setSt b) = (skipIf c s).setSt b := by
  cases c <;> rfl

theorem putV_setSt (s : State) (k : Nat) (bs : List Byte) (b : Byte) : (s.setSt b).putV k bs = (s.putV k bs).setSt b := by
  induction bs generalizing s k with
  | nil => rfl
  | cons v bs ih => exact ih { s with v := s.v.setIfInBounds k v } (k + 1)

/-- Settles O46: every instruction answers the same with the sound timer's value carried along, but LD ST, which
overwrites it. -/
theorem soundTimerIsNeverRead : Obligations.SoundTimerIsNeverRead := by
  intro i s b
  cases i
  case ldStVx => exact ⟨_, _, rfl, rfl, Frame.refl _ _⟩
  case ret =>
    by_cases empty : s.sp.val = 0
    · exact ⟨_, _, exec_ret_of_empty empty, exec_ret_of_empty (s := s.setSt b) empty, frame_setSt _ b⟩
    · obtain ⟨k, entry⟩ := exists_entry_of_nonempty empty
      exact ⟨_, _, exec_ret_of_entry entry, exec_ret_of_entry (s := s.setSt b) entry, frame_setSt _ b⟩
  case call nnn =>
    obtain full | room := s.sp_le.eq_or_lt
    · exact ⟨_, _, exec_call_of_full nnn full, exec_call_of_full (s := s.setSt b) nnn full, frame_setSt _ b⟩
    · exact ⟨_, _, exec_call_of_room nnn room, exec_call_of_room (s := s.setSt b) nnn room, frame_setSt _ b⟩
  case drw x y n =>
    obtain fits | exceeds := le_or_gt (s.i.toNat + n.toNat) 4096
    · exact ⟨_, _, exec_drw_of_fits x y fits, exec_drw_of_fits (s := s.setSt b) x y fits, frame_setSt _ b⟩
    · exact ⟨_, _, exec_drw_of_exceeds x y exceeds, exec_drw_of_exceeds (s := s.setSt b) x y exceeds, frame_setSt _ b⟩
  case ldBVx x =>
    obtain fits | exceeds := le_or_gt (s.i.toNat + 3) 4096
    · exact ⟨_, _, exec_ldBVx_of_fits x fits, exec_ldBVx_of_fits (s := s.setSt b) x fits, frame_setSt _ b⟩
    · exact ⟨_, _, exec_ldBVx_of_exceeds x exceeds, exec_ldBVx_of_exceeds (s := s.setSt b) x exceeds, frame_setSt _ b⟩
  case ldMemVx x =>
    obtain fits | exceeds := le_or_gt (s.i.toNat + (x.toNat + 1)) 4096
    · exact ⟨_, _, exec_ldMemVx_of_fits fits, exec_ldMemVx_of_fits (s := s.setSt b) fits, frame_setSt _ b⟩
    · exact ⟨_, _, exec_ldMemVx_of_exceeds exceeds, exec_ldMemVx_of_exceeds (s := s.setSt b) exceeds, frame_setSt _ b⟩
  case ldVxMem x =>
    obtain fits | exceeds := le_or_gt (s.i.toNat + (x.toNat + 1)) 4096
    · refine ⟨_, _, exec_ldVxMem_of_fits fits, exec_ldVxMem_of_fits (s := s.setSt b) fits, ?_⟩
      rw [putV_setSt]
      exact frame_setSt _ b
    · exact ⟨_, _, exec_ldVxMem_of_exceeds exceeds, exec_ldVxMem_of_exceeds (s := s.setSt b) exceeds, frame_setSt _ b⟩
  case seImm | sneImm | seReg | sneReg | skp | sknp =>
    refine ⟨_, _, rfl, rfl, ?_⟩
    rw [skipIf_setSt]
    exact frame_setSt _ b
  all_goals exact ⟨_, _, rfl, rfl, frame_setSt _ b⟩

end Sys2Proof.Machine
end

section
/-! SUPPORT and RESULTS. The step: fetch, decode and execute after the outside agents' moves, the fatal stops, and the
invariant that every step keeps (spec/30_encoding.md R85; spec/60_exceptions.md R202-R206; spec/41_control_flow.md
R115). -/

namespace Sys2Proof

theorem decode_of_decodeBytes_pair {hi lo : Byte} {i : Instr} {rest : List Byte}
    (decoded : decodeBytes [hi, lo] = .ok (i, rest)) : decode (wordOfBytes hi lo) = .ok i := by
  cases answer : decode (wordOfBytes hi lo) with
  | error e => simp [decodeBytes, answer] at decoded
  | ok j =>
    simp only [decodeBytes, answer, Except.ok.injEq, Prod.mk.injEq] at decoded
    rw [decoded.1]

end Sys2Proof

namespace Sys2Proof.Machine

/-! ## One step of a running core -/

/-- The state in which a running core fetches: after the outside agents' moves (log 39). -/
def atFetch (s : State) : State := envMove (Config.env s.draws) s

/-- The word at pc. -/
def wordAtPc (s : State) : Word := wordOfBytes (s.mem.read s.pc.toNat) (s.mem.read (s.pc.toNat + 1))

theorem step_of_running {s : State} (running : s.run = .running) : step s = fetchExecute (atFetch s) := by
  rw [step, stepWith, running]
  rfl

theorem step_of_fetch_fault {s : State} (running : s.run = .running) (exceeds : 0x0FFF ≤ s.pc.toNat) :
    step s = raiseFetch ⟨.outOfBounds, .access s.pc.toNat 2⟩ (atFetch s) := by
  have fault : fetch16 (atFetch s) (atFetch s).pc.toNat = .error ⟨.outOfBounds, .access s.pc.toNat 2⟩ :=
    fetch16_of_exceeds exceeds
  rw [step_of_running running, fetchExecute, fault]

theorem step_of_fetch {s : State} (running : s.run = .running) (fits : s.pc.toNat + 2 ≤ 4096) :
    step s = decodeExecute (wordAtPc s) (atFetch s).advance := by
  have fetched : fetch16 (atFetch s) (atFetch s).pc.toNat = .ok (wordAtPc s) := fetch16_of_fits fits
  rw [step_of_running running, fetchExecute, fetched]

theorem step_of_invalid {s : State} {e : Reject} (running : s.run = .running) (fits : s.pc.toNat + 2 ≤ 4096)
    (rejected : decode (wordAtPc s) = .error e) :
    step s = raise invalidOpcode (wordAtPc s) (atFetch s).advance := by
  rw [step_of_fetch running fits, decodeExecute, rejected]

theorem step_of_decoded {s : State} {i : Instr} (running : s.run = .running) (fits : s.pc.toNat + 2 ≤ 4096)
    (decoded : decode (wordAtPc s) = .ok i) : step s = exec i (atFetch s).advance := by
  rw [step_of_fetch running fits, decodeExecute, decoded]

/-- pc does not wrap when it moves past a word of memory (R115). -/
theorem toNat_pc_add_two {s : State} (small : s.pc.toNat ≤ 0x1000) : (s.pc + 2).toNat = s.pc.toNat + 2 := by
  have noWrap : s.pc.toNat + 2 < 0x10000 := by omega
  exact (BitVec.toNat_add _ _).trans (Nat.mod_eq_of_lt noWrap)

/-- A raise after the fetch records the address of the word that was fetched (R202). -/
theorem raise_advance (r : Raise) (op : Word) (s : State) :
    raise r op s.advance = .next (s.advance.setRun (.halted ⟨r.cause, s.pc, some op, r.info⟩)) := by
  have back : s.advance.pc - 2 = s.pc := BitVec.add_sub_cancel s.pc 2
  rw [raise_eq, back]

/-! ## Frames of a step that halts, in the parts of the whole step -/

theorem frame_fetch_halt (s : State) (r : RunState) :
    Frame (fun p => p = .run ∨ p.outside) s ((atFetch s).setRun r) :=
  ((frame_envMove _ s).mono fun _ => .inr).trans ((frame_setRun _ r).mono fun _ => .inl)

theorem frame_advance_halt (s : State) (r : RunState) :
    Frame (fun p => p = .run ∨ p = .pc ∨ p.outside) s ((atFetch s).advance.setRun r) := by
  have moved := (frame_envMove (Config.env s.draws) s).mono
    (d := fun p => p = .run ∨ p = .pc ∨ p.outside) fun _ outside => .inr (.inr outside)
  have advanced := (frame_setPc (atFetch s) (s.pc + 2)).mono
    (d := fun p => p = .run ∨ p = .pc ∨ p.outside) fun _ isPc => .inr (.inl isPc)
  exact (moved.trans advanced).trans ((frame_setRun _ r).mono fun _ => .inl)

/-- Settles O7: the fetch finds the two bytes at pc, which the outside moves left alone. -/
theorem stepRunsDecodedInstruction : Obligations.StepRunsDecodedInstruction := by
  intro s i running fits decoded
  exact step_of_decoded running fits (decode_of_decodeBytes_pair decoded)

/-- Settles O8: the fetch raises before pc is advanced. -/
theorem fetchFaultHalts : Obligations.FetchFaultHalts := by
  intro s running exceeds
  exact ⟨_, step_of_fetch_fault running exceeds, rfl, frame_fetch_halt s _⟩

/-- Settles O9: a rejected word raises after pc was advanced past it. -/
theorem invalidWordHalts : Obligations.InvalidWordHalts := by
  intro s op e running fetched rejected
  obtain fits | exceeds := le_or_gt (s.pc.toNat + 2) 4096
  · obtain rfl : wordAtPc s = op := Except.ok.inj ((fetch16_of_fits fits).symm.trans fetched)
    have raised := (step_of_invalid running fits rejected).trans (raise_advance _ _ _)
    exact ⟨_, raised, rfl, toNat_pc_add_two (s := s) (by omega), frame_advance_halt s _⟩
  · rw [fetch16_of_exceeds (by omega)] at fetched
    cases fetched

/-- Settles O10: a halted core answers its record, to its caller and at the error port. -/
theorem haltedCoreTakesNoStep : Obligations.HaltedCoreTakesNoStep := by
  intro s record halted
  constructor
  · rw [step, stepWith, halted]
  · rw [errorPort, halted]

/-! ## The precision of faults (R205) -/

/-- The one instruction with several words cannot halt, so the encoding of a halting instruction is the word decoded. -/
theorem encode_of_halting {s : State} {op : Word} {i : Instr} {c : Cause} (decoded : decode op = .ok i)
    (halts : haltCauseOf s i = some c) : encode i = op := by
  obtain ⟨-, sameWord | ⟨-, rfl⟩⟩ := encode_of_decode decoded
  · exact sameWord
  · exact nomatch halts

/-- Settles O52: a fetch fault and a rejected word raise at once, and an instruction halts by a raise or not at all. -/
theorem faultsArePrecise : Obligations.FaultsArePrecise := by
  intro s t record running stepped halted
  obtain fits | exceeds := le_or_gt (s.pc.toNat + 2) 4096
  case inr =>
    rw [step_of_fetch_fault running (by omega), raiseFetch_eq] at stepped
    obtain rfl := Host.Outcome.next.inj stepped
    obtain rfl := RunState.halted.inj halted
    have frame := (frame_fetch_halt s (.halted ⟨.outOfBounds, s.pc, none, .access s.pc.toNat 2⟩)).mono
      (d := fun p => p = .run ∨ p = .pc ∨ p.outside) fun _ part => part.imp_right .inr
    exact ⟨rfl, frame, fun fits => absurd fits (by omega), fun _ => ⟨rfl, rfl, rfl⟩⟩
  case inl =>
    suffices raised : ∃ r, raise r (wordAtPc s) (atFetch s).advance = .next t by
      obtain ⟨r, raised⟩ := raised
      obtain rfl := Host.Outcome.next.inj ((raise_advance _ _ _).symm.trans raised)
      obtain rfl := RunState.halted.inj halted
      exact ⟨rfl, frame_advance_halt s _, fun _ => ⟨toNat_pc_add_two (s := s) (by omega), rfl⟩,
        fun exceeds => absurd exceeds (by omega)⟩
    cases answer : decode (wordAtPc s) with
    | error e =>
      rw [step_of_invalid running fits answer] at stepped
      exact ⟨invalidOpcode, stepped⟩
    | ok i =>
      rw [step_of_decoded running fits answer] at stepped
      obtain ⟨c, info, halts, raised⟩ | ⟨-, u, next, completes⟩ := exec_answers i (atFetch s).advance
      · rw [encode_of_halting answer halts] at raised
        exact ⟨⟨c, info⟩, raised.symm.trans stepped⟩
      · obtain rfl := Host.Outcome.next.inj (next.symm.trans stepped)
        obtain same | ⟨x, waits⟩ := completes.run
        · exact nomatch halted.symm.trans (same.trans running)
        · exact nomatch halted.symm.trans waits

/-! ## The invariant, one rule per update -/

/-- The invariant reads memory, pc, the stack and run only. -/
theorem State.Inv.congr {s t : State} (inv : s.Inv) (mem : t.mem = s.mem) (pc : t.pc = s.pc) (sp : t.sp = s.sp)
    (stack : t.stack = s.stack) (run : t.run = s.run) : t.Inv where
  mem := mem ▸ inv.mem
  pc := pc ▸ inv.pc
  returns := by
    unfold State.ReturnsInMemory
    rw [sp, stack]
    exact inv.returns
  cause := run ▸ inv.cause

theorem State.Inv.setPc {s : State} (inv : s.Inv) {w : Word} (bound : w.toNat ≤ 0x10FE) : (s.setPc w).Inv :=
  { inv with pc := bound }

theorem State.Inv.setMem {s : State} (inv : s.Inv) {m : Memory} (wf : m.wf = true) : (s.setMem m).Inv :=
  { inv with mem := wf }

theorem State.Inv.setRun {s : State} (inv : s.Inv) {r : RunState}
    (cause : ∀ record, r = .halted record → record.cause ≠ .invalidRange) : (s.setRun r).Inv :=
  { inv with cause := cause }

/-- A pop takes entries off the stack and adds none (R28). -/
theorem State.Inv.pop {s : State} (inv : s.Inv) {k : Fin 17} (fewer : k.val ≤ s.sp.val) :
    (s.setStack s.stack k).Inv :=
  { inv with returns := fun j inStack below => inv.returns j inStack (Nat.lt_of_lt_of_le below fewer) }

/-- A push adds one return address (R27). -/
theorem State.Inv.push {s : State} (inv : s.Inv) (room : s.sp.val < 16) {w : Word} (bound : w.toNat ≤ 0x1000) :
    (s.setStack (s.stack.set s.sp.val w room) ⟨s.sp.val + 1, Nat.succ_lt_succ room⟩).Inv := by
  refine { inv with returns := ?_ }
  intro j inStack below
  obtain earlier | pushed := Nat.lt_succ_iff_lt_or_eq.1 below
  · have kept : (s.stack.set s.sp.val w room)[j] = s.stack[j] := Vector.getElem_set_ne _ _ (Nat.ne_of_gt earlier)
    exact kept ▸ inv.returns j inStack earlier
  · have top : (s.stack.set s.sp.val w room)[j] = w := by simp [pushed]
    exact (congrArg BitVec.toNat top).trans_le bound

theorem State.Inv.advance {s : State} (inv : s.Inv) (fits : s.pc.toNat + 2 ≤ 4096) : s.advance.Inv :=
  inv.setPc ((toNat_pc_add_two (s := s) (by omega)).trans_le (by omega))

theorem State.Inv.skipIf {s : State} (inv : s.Inv) (bound : s.pc.toNat ≤ 0x1000) (c : Bool) : (skipIf c s).Inv := by
  cases c
  case false => exact inv
  case true => exact inv.setPc ((toNat_pc_add_two bound).trans_le (by omega))

theorem State.Inv.writeBytes {s : State} (inv : s.Inv) {a : Nat} {bs : List Byte} (fits : a + bs.length ≤ 4096) :
    (s.setMem (s.mem.writeBytes a bs)).Inv :=
  inv.setMem (Memory.writeBytes_wf inv.mem fits)

theorem State.Inv.putV {s : State} (inv : s.Inv) (k : Nat) (bs : List Byte) : (s.putV k bs).Inv := by
  rw [State.putV_eq]
  exact inv.congr rfl rfl rfl rfl rfl

/-- Every target of a jump is at most 0xFFF + 0xFF = 0x10FE (R115). -/
theorem State.Inv.jump {s : State} (inv : s.Inv) (nnn : Addr) : (s.setPc (addrOf nnn)).Inv := by
  have target : nnn.toNat < 0x1000 := nnn.isLt
  exact inv.setPc (by rw [toNat_addrOf]; omega)

/-! ## The invariant and the instructions -/

theorem haltCauseOf_ne_invalidRange {s : State} {i : Instr} : haltCauseOf s i ≠ some .invalidRange := by
  cases i <;> simp only [haltCauseOf]
  case ret | call | drw | ldBVx | ldMemVx | ldVxMem => split <;> simp
  all_goals simp

theorem inv_of_raise {s t : State} (inv : s.Inv) {r : Raise} {op : Word} (notRange : r.cause ≠ .invalidRange)
    (raised : raise r op s = .next t) : t.Inv := by
  obtain rfl := Host.Outcome.next.inj raised
  exact inv.setRun fun record same => RunState.halted.inj same ▸ notRange

/-- A completed instruction keeps the invariant, if it starts as a fetch leaves it: with pc at most 0x1000. -/
theorem exec_keeps_inv_of_no_halt {i : Instr} {s : State} (inv : s.Inv) (bound : s.pc.toNat ≤ 0x1000)
    (noHalt : haltCauseOf s i = none) : ∃ t, exec i s = .next t ∧ t.Inv := by
  cases i
  case ret =>
    have nonempty : s.sp.val ≠ 0 := by simpa [haltCauseOf] using noHalt
    obtain ⟨k, entry⟩ := exists_entry_of_nonempty nonempty
    have returns := inv.returns k (Nat.lt_of_succ_le (entry.trans_le s.sp_le)) (Nat.lt_of_succ_le entry.le)
    exact ⟨_, exec_ret_of_entry entry, (inv.pop (entry ▸ Nat.le_succ _)).setPc (returns.trans (by decide))⟩
  case call nnn =>
    have notFull : s.sp.val ≠ 16 := by simpa [haltCauseOf] using noHalt
    have room : s.sp.val < 16 := Nat.lt_of_le_of_ne s.sp_le notFull
    exact ⟨_, exec_call_of_room nnn room, (inv.push room bound).jump nnn⟩
  case drw x y n =>
    have fits : s.i.toNat + n.toNat ≤ 4096 := by simpa [haltCauseOf] using noHalt
    exact ⟨_, exec_drw_of_fits x y fits, inv.congr rfl rfl rfl rfl rfl⟩
  case ldBVx x =>
    have fits : s.i.toNat + 3 ≤ 4096 := by simpa [haltCauseOf] using noHalt
    exact ⟨_, exec_ldBVx_of_fits x fits, inv.writeBytes fits⟩
  case ldMemVx x =>
    have fits : s.i.toNat + x.toNat + 1 ≤ 4096 := by simpa [haltCauseOf] using noHalt
    exact ⟨_, exec_ldMemVx_of_fits fits, inv.writeBytes (by rwa [registersTo_length])⟩
  case ldVxMem x =>
    have fits : s.i.toNat + x.toNat + 1 ≤ 4096 := by simpa [haltCauseOf] using noHalt
    exact ⟨_, exec_ldVxMem_of_fits fits, inv.putV 0 _⟩
  case sys nnn | jp nnn => exact ⟨_, rfl, inv.jump nnn⟩
  case jpV0 nnn =>
    have target : nnn.toNat < 0x1000 := nnn.isLt
    have offset : (s.getV 0).toNat < 0x100 := s.getV_lt 0
    exact ⟨_, rfl, inv.setPc (by rw [toNat_addrOf_add_wordOfV]; omega)⟩
  case seImm | sneImm | seReg | sneReg | skp | sknp => exact ⟨_, rfl, inv.skipIf bound _⟩
  case ldVxK x => exact ⟨_, rfl, inv.setRun fun _ waits => nomatch waits⟩
  all_goals exact ⟨_, rfl, inv.congr rfl rfl rfl rfl rfl⟩

theorem exec_keeps_inv {i : Instr} {s t : State} (inv : s.Inv) (bound : s.pc.toNat ≤ 0x1000)
    (answer : exec i s = .next t) : t.Inv := by
  obtain ⟨c, info, halts, raised⟩ | ⟨noHalt, -⟩ := exec_answers i s
  · have notRange : c ≠ .invalidRange := fun isRange => haltCauseOf_ne_invalidRange (isRange ▸ halts)
    exact inv_of_raise inv notRange (raised.symm.trans answer)
  · obtain ⟨u, next, keeps⟩ := exec_keeps_inv_of_no_halt inv bound noHalt
    exact Host.Outcome.next.inj (next.symm.trans answer) ▸ keeps

/-- Both outcomes of the key-arrival step keep the invariant: V is not in it, and Running is no halt (R161). -/
theorem State.Inv.keyArrival {s : State} (inv : s.Inv) (x : Nibble) (k : Option Nibble) : (keyArrival x k s).Inv := by
  cases k with
  | none => exact inv
  | some k =>
    have written : (s.setV x (k.setWidth 8)).Inv := inv.congr rfl rfl rfl rfl rfl
    exact written.setRun fun _ running => nomatch running

theorem State.Inv.envMove {s : State} (inv : s.Inv) (inp : EnvInput) : (envMove inp s).Inv :=
  inv.congr rfl rfl rfl rfl rfl

theorem running_step_keeps_inv {s t : State} (inv : s.Inv) (running : s.run = .running) (stepped : step s = .next t) :
    t.Inv := by
  have moved : (atFetch s).Inv := inv.envMove _
  obtain fits | exceeds := le_or_gt (s.pc.toNat + 2) 4096
  · have bound : (atFetch s).advance.pc.toNat ≤ 0x1000 := (toNat_pc_add_two (s := s) (by omega)).trans_le fits
    have advanced : (atFetch s).advance.Inv := moved.advance fits
    cases answer : decode (wordAtPc s) with
    | error e =>
      rw [step_of_invalid running fits answer] at stepped
      exact inv_of_raise advanced (by decide) stepped
    | ok i =>
      rw [step_of_decoded running fits answer] at stepped
      exact exec_keeps_inv advanced bound stepped
  · rw [step_of_fetch_fault running (by omega), raiseFetch_eq] at stepped
    obtain rfl := Host.Outcome.next.inj stepped
    have notRange : Cause.outOfBounds ≠ .invalidRange := by decide
    exact moved.setRun fun record same => RunState.halted.inj same ▸ notRange

/-- Settles O55: a fetch that succeeds leaves pc at most 0x1000, from where no instruction can bring pc above 0x10FE or
push a larger return address; a waiting core takes a key or nothing, and a halted one takes no step. -/
theorem stepKeepsInvariant : Obligations.StepKeepsInvariant := by
  intro s t inv stepped
  cases mode : s.run with
  | running => exact running_step_keeps_inv inv mode stepped
  | waitingKey x =>
    rw [step, stepWith, mode] at stepped
    obtain rfl := Host.Outcome.next.inj stepped
    exact (inv.envMove _).keyArrival x _
  | halted record =>
    rw [(haltedCoreTakesNoStep s record mode).1] at stepped
    cases stepped

/-- Settles O56: no cell is written, no return address pushed, and pc is 0x200. -/
theorem resetMeetsInvariant : Obligations.ResetMeetsInvariant where
  mem := rfl
  pc := by decide
  returns := fun _ _ below => absurd below (Nat.not_lt_zero _)
  cause := fun _ halted => nomatch halted

end Sys2Proof.Machine
end

section
/-! SUPPORT and RESULTS. DRW as the list of the pixels it flips: a sprite drawn at a start position hits one pixel for
each set bit, in the order of the rows and columns (spec/40_display.md R101, R102). -/

namespace Sys2Proof.Machine

/-! ## Drawing as a list of hits -/

/-- The pixels hit by the set bits of a row among the columns `cs`. -/
def columnHits (row : Byte) (x0 y : Nat) (cs : List Nat) : List (Nat × Nat) :=
  (cs.filter (spriteBit row)).map fun c => ((x0 + c) % 64, y % 32)

/-- The pixels hit by a sprite, row by row. -/
def spriteHits (x0 y : Nat) : List Byte → List (Nat × Nat)
  | [] => []
  | row :: rows => columnHits row x0 y (List.range' 0 8) ++ spriteHits x0 (y + 1) rows

/-- Flip the hit pixels one after the other, noting collisions. -/
def drawHits (acc : Framebuffer × Bool) (hits : List (Nat × Nat)) : Framebuffer × Bool :=
  hits.foldl (fun drawn hit => drawPixel drawn hit.1 hit.2) acc

@[simp] theorem drawHits_nil (acc : Framebuffer × Bool) : drawHits acc [] = acc := rfl

@[simp] theorem drawHits_cons (acc : Framebuffer × Bool) (hit : Nat × Nat) (hits : List (Nat × Nat)) :
    drawHits acc (hit :: hits) = drawHits (drawPixel acc hit.1 hit.2) hits := rfl

theorem drawHits_append (acc : Framebuffer × Bool) (hits hits' : List (Nat × Nat)) :
    drawHits acc (hits ++ hits') = drawHits (drawHits acc hits) hits' :=
  List.foldl_append

/-- A pixel is flipped at its coordinates mod 64 and mod 32. -/
theorem drawPixel_mod (acc : Framebuffer × Bool) (x y : Nat) :
    drawPixel acc (x % 64) (y % 32) = drawPixel acc x y := by
  simp [drawPixel, Framebuffer.flip, Framebuffer.pixel]

theorem drawColumns_eq_drawHits (row : Byte) (x0 y c left : Nat) (acc : Framebuffer × Bool) :
    drawColumns row x0 y c left acc = drawHits acc (columnHits row x0 y (List.range' c left)) := by
  induction left generalizing c acc with
  | zero => rfl
  | succ left ih =>
    rw [drawColumns, ih, List.range'_succ]
    by_cases set : spriteBit row c = true
    · simp [columnHits, set, drawPixel_mod]
    · simp [columnHits, set]

theorem drawRows_eq_drawHits (x0 y : Nat) (rows : List Byte) (acc : Framebuffer × Bool) :
    drawRows x0 y rows acc = drawHits acc (spriteHits x0 y rows) := by
  induction rows generalizing y acc with
  | nil => rfl
  | cons row rows ih => rw [drawRows, ih, drawColumns_eq_drawHits, spriteHits, drawHits_append]

theorem fbDraw_eq_drawHits (fb : Framebuffer) (x0 y0 : Byte) (rows : List Byte) :
    fbDraw fb x0 y0 rows = drawHits (fb, false) (spriteHits x0.toNat y0.toNat rows) :=
  drawRows_eq_drawHits x0.toNat y0.toNat rows (fb, false)

/-! ## Which pixels a sprite hits -/

theorem mem_columnHits {row : Byte} {x0 y : Nat} {cs : List Nat} {hit : Nat × Nat} :
    hit ∈ columnHits row x0 y cs ↔ ∃ c ∈ cs, spriteBit row c = true ∧ ((x0 + c) % 64, y % 32) = hit := by
  simp only [columnHits, List.mem_map, List.mem_filter, and_assoc]

theorem mem_spriteHits {x0 y px py : Nat} {rows : List Byte} :
    (px, py) ∈ spriteHits x0 y rows ↔
      ∃ r c row, rows[r]? = some row ∧ c < 8 ∧ (x0 + c) % 64 = px ∧ (y + r) % 32 = py ∧ spriteBit row c = true := by
  induction rows generalizing y with
  | nil => simp [spriteHits]
  | cons row rows ih =>
    rw [spriteHits, List.mem_append, mem_columnHits, ih]
    constructor
    · rintro (⟨c, inRow, set, same⟩ | ⟨r, c, row', at_r, inRow, sameX, sameY, set⟩)
      · obtain ⟨sameX, sameY⟩ := Prod.mk.inj same
        exact ⟨0, c, row, rfl, (List.mem_range'_1.1 inRow).2, sameX, sameY, set⟩
      · exact ⟨r + 1, c, row', at_r, inRow, sameX, by rwa [Nat.add_comm r, ← Nat.add_assoc], set⟩
    · rintro ⟨r, c, row', at_r, inRow, sameX, sameY, set⟩
      cases r with
      | zero =>
        obtain rfl := Option.some.inj at_r
        exact .inl ⟨c, List.mem_range'_1.2 ⟨Nat.zero_le c, inRow⟩, set, Prod.ext sameX sameY⟩
      | succ r => exact .inr ⟨r, c, row', at_r, inRow, sameX, by rwa [Nat.add_assoc, Nat.add_comm 1], set⟩

/-- Every hit is on the screen. -/
theorem onScreen_of_mem_spriteHits {x0 y : Nat} {rows : List Byte} {hit : Nat × Nat}
    (isHit : hit ∈ spriteHits x0 y rows) : hit.1 < 64 ∧ hit.2 < 32 := by
  obtain ⟨r, c, row, -, -, sameX, sameY, -⟩ := mem_spriteHits.1 isHit
  exact ⟨sameX ▸ Nat.mod_lt _ (by decide), sameY ▸ Nat.mod_lt _ (by decide)⟩

/-- The eight columns of a row hit eight different pixels. -/
theorem columnHits_nodup (row : Byte) (x0 y : Nat) : (columnHits row x0 y (List.range' 0 8)).Nodup := by
  have columns : ((List.range' 0 8).filter (spriteBit row)).Nodup := List.Nodup.filter _ List.nodup_range'
  refine columns.map_on fun c inRow c' inRow' same => ?_
  have below : c < 8 := (List.mem_range'_1.1 (List.mem_of_mem_filter inRow)).2
  have below' : c' < 8 := (List.mem_range'_1.1 (List.mem_of_mem_filter inRow')).2
  have sameX : (x0 + c) % 64 = (x0 + c') % 64 := congrArg Prod.fst same
  omega

/-- Up to 32 rows hit different pixels, since no two of them wrap to the same line. -/
theorem spriteHits_nodup (x0 y : Nat) {rows : List Byte} (atMost : rows.length ≤ 32) :
    (spriteHits x0 y rows).Nodup := by
  induction rows generalizing y with
  | nil => exact List.nodup_nil
  | cons row rows ih =>
    rw [List.length_cons] at atMost
    refine List.nodup_append.2 ⟨columnHits_nodup row x0 y, ih (y + 1) (by omega), ?_⟩
    rintro hit first ⟨px, py⟩ later rfl
    obtain ⟨c, -, -, same⟩ := mem_columnHits.1 first
    obtain ⟨r, c', row', at_r, -, -, line, -⟩ := mem_spriteHits.1 later
    have sameLine : y % 32 = py := congrArg Prod.snd same
    have inRows : r < rows.length := (List.getElem?_eq_some_iff.1 at_r).1
    omega

/-- The hits depend on the start position only mod 64 and mod 32. -/
theorem spriteHits_congr {x0 x1 y0 y1 : Nat} (sameX : x0 % 64 = x1 % 64) (sameY : y0 % 32 = y1 % 32)
    (rows : List Byte) : spriteHits x0 y0 rows = spriteHits x1 y1 rows := by
  induction rows generalizing y0 y1 with
  | nil => rfl
  | cons row rows ih =>
    have columns : columnHits row x0 y0 (List.range' 0 8) = columnHits row x1 y1 (List.range' 0 8) := by
      refine List.map_congr_left fun c _ => ?_
      rw [sameY, Nat.add_mod x0, sameX, ← Nat.add_mod]
    have nextLine : (y0 + 1) % 32 = (y1 + 1) % 32 := by omega
    rw [spriteHits, spriteHits, columns, ih nextLine]

/-! ## What the hits do -/

/-- A hit on the screen inverts its own pixel and no other. -/
theorem pixel_drawPixel (acc : Framebuffer × Bool) {hit : Nat × Nat} {px py : Nat} (hitOnScreen : hit.1 < 64 ∧ hit.2 < 32)
    (onScreen : px < 64 ∧ py < 32) :
    (drawPixel acc hit.1 hit.2).1.pixel px py = (acc.1.pixel px py ^^ decide (hit = (px, py))) := by
  have samePixel : (px % 64 = hit.1 % 64 ∧ py % 32 = hit.2 % 32) ↔ hit = (px, py) := by
    rw [Nat.mod_eq_of_lt hitOnScreen.1, Nat.mod_eq_of_lt hitOnScreen.2, Nat.mod_eq_of_lt onScreen.1,
      Nat.mod_eq_of_lt onScreen.2, Prod.ext_iff, eq_comm, eq_comm (a := py)]
  rw [drawPixel, Framebuffer.pixel_flip]
  by_cases isHit : hit = (px, py)
  · rw [if_pos (samePixel.2 isHit), decide_eq_true isHit, Bool.xor_true]
  · rw [if_neg (isHit ∘ samePixel.1), decide_eq_false isHit, Bool.xor_false]

/-- A pixel is inverted as often as it is hit. -/
theorem pixel_drawHits (acc : Framebuffer × Bool) {hits : List (Nat × Nat)} {px py : Nat}
    (hitsOnScreen : ∀ hit ∈ hits, hit.1 < 64 ∧ hit.2 < 32) (onScreen : px < 64 ∧ py < 32) :
    (drawHits acc hits).1.pixel px py = (acc.1.pixel px py ^^ (hits.count (px, py)).bodd) := by
  induction hits generalizing acc with
  | nil => simp
  | cons hit hits ih =>
    obtain ⟨hitOnScreen, restOnScreen⟩ := List.forall_mem_cons.1 hitsOnScreen
    rw [drawHits_cons, ih _ restOnScreen, pixel_drawPixel acc hitOnScreen onScreen, List.count_cons]
    by_cases isHit : hit = (px, py)
    · simp [isHit]
    · simp [isHit]

/-- Hits on different pixels invert exactly the pixels hit. -/
theorem pixel_drawHits_of_nodup (acc : Framebuffer × Bool) {hits : List (Nat × Nat)} {px py : Nat}
    (distinct : hits.Nodup) (hitsOnScreen : ∀ hit ∈ hits, hit.1 < 64 ∧ hit.2 < 32) (onScreen : px < 64 ∧ py < 32) :
    (drawHits acc hits).1.pixel px py = (acc.1.pixel px py ^^ decide ((px, py) ∈ hits)) := by
  rw [pixel_drawHits acc hitsOnScreen onScreen]
  by_cases isHit : (px, py) ∈ hits
  · rw [List.count_eq_one_of_mem distinct isHit, decide_eq_true isHit, Nat.bodd_one]
  · rw [List.count_eq_zero_of_not_mem isHit, decide_eq_false isHit, Nat.bodd_zero]

/-- Of hits on different pixels, one collides exactly when its pixel was set before all of them. -/
theorem collision_drawHits (acc : Framebuffer × Bool) {hits : List (Nat × Nat)} (distinct : hits.Nodup)
    (hitsOnScreen : ∀ hit ∈ hits, hit.1 < 64 ∧ hit.2 < 32) :
    (drawHits acc hits).2 = true ↔ acc.2 = true ∨ ∃ hit ∈ hits, acc.1.pixel hit.1 hit.2 = true := by
  induction hits generalizing acc with
  | nil => simp
  | cons hit hits ih =>
    obtain ⟨fresh, distinct⟩ := List.nodup_cons.1 distinct
    obtain ⟨hitOnScreen, restOnScreen⟩ := List.forall_mem_cons.1 hitsOnScreen
    have untouched : ∀ later ∈ hits,
        (drawPixel acc hit.1 hit.2).1.pixel later.1 later.2 = acc.1.pixel later.1 later.2 := by
      intro later isLater
      have other : hit ≠ later := fun same => fresh (same ▸ isLater)
      rw [pixel_drawPixel acc hitOnScreen (restOnScreen later isLater), decide_eq_false other, Bool.xor_false]
    have laterSet : (∃ later ∈ hits, (drawPixel acc hit.1 hit.2).1.pixel later.1 later.2 = true) ↔
        ∃ later ∈ hits, acc.1.pixel later.1 later.2 = true :=
      exists_congr fun later => and_congr_right fun isLater => by rw [untouched later isLater]
    rw [drawHits_cons, ih _ distinct restOnScreen, laterSet, drawPixel, Bool.or_eq_true, List.exists_mem_cons_iff,
      or_assoc]

/-! ## The statements -/

/-- Settles O17: start positions with the same remainders give the same list of hits. -/
theorem drawCoordinatesWrap : Obligations.DrawCoordinatesWrap := by
  intro fb x0 y0 x1 y1 rows sameX sameY
  rw [fbDraw_eq_drawHits, fbDraw_eq_drawHits, spriteHits_congr sameX sameY]

/-- Settles O16: the second drawing hits each pixel as often as the first, so every pixel is inverted an even number of
times. -/
theorem drawTwiceRestores : Obligations.DrawTwiceRestores := by
  intro fb x0 y0 rows
  apply Framebuffer.ext_pixel
  intro px py inWidth inHeight
  have once (acc : Framebuffer × Bool) := pixel_drawHits acc
    (fun _ => onScreen_of_mem_spriteHits (x0 := x0.toNat) (y := y0.toNat) (rows := rows)) ⟨inWidth, inHeight⟩
  rw [fbDraw_eq_drawHits, fbDraw_eq_drawHits, once, once, Bool.xor_assoc, Bool.xor_self, Bool.xor_false]

/-- The hits of the rows in memory are the pixels under set bits of the sprite. -/
theorem mem_spriteHits_readBytes {m : Memory} {a n : Nat} {x0 y0 : Byte} {px py : Nat} :
    (px, py) ∈ spriteHits x0.toNat y0.toNat (m.readBytes a n) ↔ SpriteCovers m a n x0 y0 px py := by
  rw [mem_spriteHits]
  constructor
  · rintro ⟨r, c, row, at_r, inRow, sameX, sameY, set⟩
    obtain ⟨inRows, rfl⟩ := List.getElem?_eq_some_iff.1 at_r
    rw [Memory.readBytes_getElem] at set
    exact ⟨r, c, by simpa using inRows, inRow, sameX, sameY, set⟩
  · rintro ⟨r, c, inRows, inRow, sameX, sameY, set⟩
    have at_r : (m.readBytes a n)[r]? = some (m.read (a + r)) :=
      List.getElem?_eq_some_iff.2 ⟨by simpa using inRows, Memory.readBytes_getElem m a n r _⟩
    exact ⟨r, c, _, at_r, inRow, sameX, sameY, set⟩

/-- The pixels that DRW hits. -/
def hitsAtI (s : State) (x y n : Nibble) : List (Nat × Nat) :=
  spriteHits (s.getV x).toNat (s.getV y).toNat (s.mem.readBytes s.i.toNat n.toNat)

theorem drawnAtI_eq_drawHits (s : State) (x y n : Nibble) : drawnAtI s x y n = drawHits (s.fb, false) (hitsAtI s x y n) :=
  fbDraw_eq_drawHits s.fb (s.getV x) (s.getV y) (s.mem.readBytes s.i.toNat n.toNat)

theorem mem_hitsAtI {s : State} {x y n : Nibble} {px py : Nat} :
    (px, py) ∈ hitsAtI s x y n ↔ SpriteCovers s.mem s.i.toNat n.toNat (s.getV x) (s.getV y) px py :=
  mem_spriteHits_readBytes

/-- DRW draws at most 15 rows. -/
theorem hitsAtI_nodup (s : State) (x y n : Nibble) : (hitsAtI s x y n).Nodup := by
  have rows : n.toNat < 16 := n.isLt
  exact spriteHits_nodup _ _ (by rw [Memory.readBytes_length]; omega)

theorem pixel_drawnAtI (s : State) (x y n : Nibble) {px py : Nat} (onScreen : px < 64 ∧ py < 32) :
    (drawnAtI s x y n).1.pixel px py = (s.fb.pixel px py ^^ decide ((px, py) ∈ hitsAtI s x y n)) := by
  rw [drawnAtI_eq_drawHits]
  exact pixel_drawHits_of_nodup (s.fb, false) (hitsAtI_nodup s x y n) (fun _ => onScreen_of_mem_spriteHits) onScreen

theorem collision_drawnAtI (s : State) (x y n : Nibble) :
    (drawnAtI s x y n).2 = true ↔
      ∃ px py, px < 64 ∧ py < 32 ∧ (px, py) ∈ hitsAtI s x y n ∧ s.fb.pixel px py = true := by
  rw [drawnAtI_eq_drawHits, collision_drawHits (s.fb, false) (hitsAtI_nodup s x y n) fun _ => onScreen_of_mem_spriteHits]
  constructor
  · rintro (impossible | ⟨⟨px, py⟩, isHit, set⟩)
    · cases impossible
    · have onScreen := onScreen_of_mem_spriteHits isHit
      exact ⟨px, py, onScreen.1, onScreen.2, isHit, set⟩
  · rintro ⟨px, py, -, -, isHit, set⟩
    exact .inr ⟨(px, py), isHit, set⟩

/-- Settles O15: a sprite of at most 15 rows hits each pixel under a set bit once and no other pixel, so what it finds
under its bits is what was there before. -/
theorem drawInvertsCoveredPixels : Obligations.DrawInvertsCoveredPixels := by
  intro s x y n fits covers
  have flag : ((s.setFb (drawnAtI s x y n).1).setV regF (flagByte (drawnAtI s x y n).2)).getV 0xF =
      flagByte (drawnAtI s x y n).2 := State.getV_setV_same _ regF _
  have collides := collision_drawnAtI s x y n
  simp only [mem_hitsAtI] at collides
  refine ⟨_, exec_drw_of_fits x y fits, ?pixels, ?collision, ?noCollision, ?frame⟩
  case pixels =>
    intro px py inWidth inHeight
    have drawn := pixel_drawnAtI s x y n ⟨inWidth, inHeight⟩
    constructor
    · intro covered
      rwa [decide_eq_true (mem_hitsAtI.2 covered), Bool.xor_true] at drawn
    · intro uncovered
      rwa [decide_eq_false (uncovered ∘ mem_hitsAtI.1), Bool.xor_false] at drawn
  case collision =>
    intro collision
    rw [flag, collides.2 collision]
    rfl
  case noCollision =>
    intro noCollision
    rw [flag, Bool.eq_false_of_not_eq_true (noCollision ∘ collides.1)]
    rfl
  case frame =>
    exact ((frame_setFb s _).mono fun _ => .inl).trans ((frame_setV _ regF _).mono fun _ => .inr)

end Sys2Proof.Machine
end

section
/-! SUPPORT and RESULTS. CALL, RET and the call stack (spec/10_state.md R26-R28; spec/41_control_flow.md R110, R113), and
the skips on two registers and on keys (spec/42_skip.md R124-R126). -/

namespace Sys2Proof.Machine

/-- Settles O19: a push into the slot that SP names, then a jump. -/
theorem callPushesReturnAddress : Obligations.CallPushesReturnAddress := by
  intro s nnn room
  have pushed := (frame_push s s.pc room).mono (d := fun p => p = .pc ∨ p = .sp ∨ p = .slot s.sp.val) fun _ => .inr
  have stored : (s.stack.set s.sp.val s.pc room)[s.sp.val]? = some s.pc := by simp
  exact ⟨_, exec_call_of_room nnn room, toNat_addrOf nnn, rfl, stored, pushed.trans ((frame_setPc _ _).mono fun _ => .inl)⟩

/-- Settles O20: the entry below SP goes to pc, and SP alone of the stack changes. -/
theorem returnPopsAddress : Obligations.ReturnPopsAddress := by
  intro s nonempty
  obtain ⟨k, entry⟩ := exists_entry_of_nonempty (Nat.ne_of_gt nonempty)
  have slot : s.sp.val - 1 = k.val := Nat.sub_eq_of_eq_add entry.symm
  have popped := (frame_setSp s k).mono (d := fun p => p = .pc ∨ p = .sp) fun _ => .inr
  refine ⟨_, exec_ret_of_entry entry, ?target, entry, popped.trans ((frame_setPc _ _).mono fun _ => .inl)⟩
  case target =>
    rw [slot]
    exact (Vector.getElem?_eq_getElem _).symm

/-- Settles O21: a push at capacity and a pop of nothing raise, and a raise changes only run. -/
theorem stackFaultsHalt : Obligations.StackFaultsHalt := by
  constructor
  · intro s nnn full
    exact ⟨_, exec_call_of_full nnn full, rfl, frame_setRun s _⟩
  · intro s empty
    exact ⟨_, exec_ret_of_empty empty, rfl, frame_setRun s _⟩

/-- Settles O22: the entry that RET pops is the one that the CALL pushed. -/
theorem returnResumesAfterCall : Obligations.ReturnResumesAfterCall := by
  intro s nnn room
  refine ⟨_, exec_call_of_room nnn room, ?_⟩
  intro u sameSp sameStack
  have entry : s.sp.val + 1 = u.sp.val := congrArg Fin.val sameSp.symm
  have slot : u.stack[s.sp.val] = s.pc := by
    simp only [sameStack, State.setPc_stack, State.setStack_stack, Vector.getElem_set_self]
  exact ⟨_, exec_ret_of_entry entry, slot, rfl⟩

/-- A list of pushes succeeds exactly when its entries fit above those on the stack (R27). -/
theorem pushes_succeed_iff (s : State) (ws : List Word) :
    (∃ t, ws.foldlM push s = .ok t) ↔ s.sp.val + ws.length ≤ 16 := by
  induction ws generalizing s with
  | nil => exact iff_of_true ⟨s, rfl⟩ s.sp_le
  | cons w ws ih =>
    rw [List.foldlM_cons, List.length_cons]
    obtain full | room := s.sp_le.eq_or_lt
    · rw [push_full s w full]
      exact iff_of_false (fun ⟨_, impossible⟩ => nomatch impossible) (by omega)
    · rw [push_ok s w room]
      refine (ih _).trans ?_
      rw [State.setStack_sp, Nat.add_right_comm, Nat.add_assoc]

/-- Settles O23: each push takes one of the sixteen slots. -/
theorem sixteenPushesFit : Obligations.SixteenPushesFit := by
  constructor
  · intro s w
    refine ⟨push_full s w, fun room => ⟨_, push_ok s w room, ?_, rfl⟩⟩
    simp
  · intro s ws empty
    rw [pushes_succeed_iff, empty, Nat.zero_add]

/-! ## Skips -/

theorem exec_sneReg (x y : Nibble) (s : State) :
    exec (.sneReg x y) s = .next (s.setPc (if s.getV x = s.getV y then s.pc else s.pc + 2)) := by
  have skips : exec (.sneReg x y) s = .next (s.setPc (if s.getV x ≠ s.getV y then s.pc + 2 else s.pc)) :=
    congrArg _ (skipIf_decide (s.getV x ≠ s.getV y) s)
  rw [skips, ite_not]

/-- Settles O25: the skip is one write of pc, whose value the comparison selects. -/
theorem sneRegSkips : Obligations.SneRegSkips := by
  intro s x y
  exact ⟨_, exec_sneReg x y s, rfl, frame_setPc s _⟩

theorem exec_skp (x : Nibble) (s : State) :
    exec (.skp x) s = .next (s.setPc (if keyPressed s (s.getV x) then s.pc + 2 else s.pc)) :=
  congrArg _ (skipIf_eq _ s)

theorem exec_sknp (x : Nibble) (s : State) :
    exec (.sknp x) s = .next (s.setPc (if !keyPressed s (s.getV x) then s.pc + 2 else s.pc)) :=
  congrArg _ (skipIf_eq _ s)

/-- Settles O26: both skips ask the same query of the key state, and SKNP negates it. -/
theorem keySkipsAreOpposite : Obligations.KeySkipsAreOpposite := by
  intro s x pressed
  refine ⟨_, _, exec_skp x s, exec_sknp x s, ?pressed, ?notPressed, frame_setPc s _, frame_setPc s _⟩
  case pressed =>
    intro isPressed
    rw [(keyPressed_iff s (s.getV x)).2 isPressed]
    exact ⟨rfl, rfl⟩
  case notPressed =>
    intro notPressed
    rw [Bool.eq_false_of_not_eq_true (notPressed ∘ (keyPressed_iff s (s.getV x)).1)]
    exact ⟨rfl, rfl⟩

end Sys2Proof.Machine
end

section
/-! SUPPORT and RESULTS. The register ALU: logic, arithmetic with a flag, shifts and RND (spec/43_alu.md R130, R134-R142),
and the sum with I (spec/44_index_memory.md R152). -/

namespace Sys2Proof.Machine

/-- Settles O28: each operation is one write of V[X], whose bits are the operation of the bits. -/
theorem logicLeavesFlag : Obligations.LogicLeavesFlag := by
  intro s x y
  refine ⟨⟨_, rfl, ?orBits, frame_setV s x _⟩, ⟨_, rfl, ?andBits, frame_setV s x _⟩, ⟨_, rfl, ?xorBits, frame_setV s x _⟩⟩
  case orBits =>
    intro k
    rw [State.getV_setV_same, BitVec.getLsbD_or]
  case andBits =>
    intro k
    rw [State.getV_setV_same, BitVec.getLsbD_and]
  case xorBits =>
    intro k
    rw [State.getV_setV_same, BitVec.getLsbD_xor]

/-! ## WriteRF (R130) -/

theorem toNat_flagByte (c : Bool) : (flagByte c).toNat = if c then 1 else 0 := by
  cases c <;> rfl

theorem getV_writeRF_result {x : Nibble} (notF : x ≠ 0xF) (r : Byte) (f : Bool) (s : State) :
    (writeRF x r f s).getV x = r := by
  rw [getV_writeRF, if_neg (show x ≠ regF from notF), if_pos rfl]

theorem getV_writeRF_flag (x : Nibble) (r : Byte) (f : Bool) (s : State) :
    (writeRF x r f s).getV 0xF = flagByte f := by
  rw [getV_writeRF]
  exact if_pos rfl

/-- What an instruction does that writes a result and a flag: the result unless VF is the destination, the flag in VF for
every destination, and nothing else (R130; D8). -/
theorem writeRF_spec {i : Instr} {s : State} {x : Nibble} {r : Byte} {f : Bool} {result flag : Nat}
    (answer : exec i s = .next (writeRF x r f s)) (value : r.toNat = result) (flagValue : (flagByte f).toNat = flag) :
    ∃ t, exec i s = .next t ∧ (x ≠ 0xF → (t.getV x).toNat = result) ∧ (t.getV 0xF).toNat = flag ∧
      Frame (fun p => p = .reg x ∨ p = .reg 0xF) s t := by
  refine ⟨_, answer, ?result, ?flag, frame_writeRF s x r f⟩
  case result =>
    intro notF
    rw [getV_writeRF_result notF, value]
  case flag => rw [getV_writeRF_flag, flagValue]

theorem toNat_flagByte_carryOut (a b : Byte) :
    (flagByte (carryOut a b)).toNat = if 255 < a.toNat + b.toNat then 1 else 0 := by
  simp only [toNat_flagByte, carryOut_eq, decide_eq_true_eq]

theorem toNat_flagByte_noBorrow (a b : Byte) : (flagByte (noBorrow a b)).toNat = if b.toNat ≤ a.toNat then 1 else 0 := by
  simp only [toNat_flagByte, noBorrow, decide_eq_true_eq]

/-- A difference of bytes wraps at 256 (R138). -/
theorem toNat_sub_byte (a b : Byte) : (a - b).toNat = (a.toNat + 256 - b.toNat) % 256 := by
  have small : b.toNat < 256 := b.isLt
  rw [BitVec.toNat_sub]
  congr 1
  omega

/-- Settles O29: the three instructions write a result mod 256 and the carry or no-borrow flag of the values read first. -/
theorem arithmeticSetsFlag : Obligations.ArithmeticSetsFlag := by
  intro s x y a b
  refine ⟨?add, ?sub, ?subn⟩
  case add => exact writeRF_spec rfl (BitVec.toNat_add _ _) (toNat_flagByte_carryOut _ _)
  case sub => exact writeRF_spec rfl (toNat_sub_byte _ _) (toNat_flagByte_noBorrow _ _)
  case subn => exact writeRF_spec rfl (toNat_sub_byte _ _) (toNat_flagByte_noBorrow _ _)

theorem toNat_flagByte_shiftedOutLow (a : Byte) : (flagByte (shiftedOutLow a)).toNat = a.toNat % 2 := by
  rw [toNat_flagByte, shiftedOutLow, BitVec.getLsbD, Nat.testBit_zero]
  obtain even | odd := Nat.mod_two_eq_zero_or_one a.toNat
  · simp [even]
  · simp [odd]

theorem toNat_flagByte_shiftedOutHigh (a : Byte) : (flagByte (shiftedOutHigh a)).toNat = a.toNat / 128 := by
  have small : a.toNat < 256 := a.isLt
  have digit : a.toNat / 128 = 0 ∨ a.toNat / 128 = 1 := by omega
  rw [toNat_flagByte, shiftedOutHigh_eq, BitVec.getLsbD, Nat.testBit_eq_decide_div_mod_eq]
  obtain low | high := digit
  · simp [low]
  · simp [high]

/-- Settles O30: both shifts write the halved or doubled V[X] and the bit that leaves it, and neither reads V[Y]. -/
theorem shiftsSetFlag : Obligations.ShiftsSetFlag := by
  intro s x y a
  constructor
  · have halved : (s.getV x >>> 1).toNat = a / 2 := by
      rw [BitVec.toNat_ushiftRight, Nat.shiftRight_one]
    exact writeRF_spec rfl halved (toNat_flagByte_shiftedOutLow _)
  · have doubled : (s.getV x <<< 1).toNat = a * 2 % 256 := by
      rw [BitVec.toNat_shiftLeft, Nat.shiftLeft_eq]
      rfl
    exact writeRF_spec rfl doubled (toNat_flagByte_shiftedOutHigh _)

/-- Writes of two registers commute. -/
theorem setV_comm (s : State) {x y : Nibble} (other : x ≠ y) (a b : Byte) :
    (s.setV x a).setV y b = (s.setV y b).setV x a := by
  have otherNumber : x.toNat ≠ y.toNat := fun same => other (BitVec.eq_of_toNat_eq same)
  simp only [State.setV, Vector.set_comm _ _ otherNumber]

/-- Settles O31: the two writes commute unless both go to VF, where the last one remains. -/
theorem writeOrdersDifferOnlyAtF : Obligations.WriteOrdersDifferOnlyAtF := by
  intro s x r f
  refine ⟨fun notF => setV_comm s notF r (flagByte f), ?flagLast, ?resultLast⟩
  case flagLast => exact State.getV_setV_same _ regF _
  case resultLast => exact State.getV_setV_same _ 0xF _

/-- Settles O32: the draw is masked bit by bit, whatever byte it is. -/
theorem randomByteIsMasked : Obligations.RandomByteIsMasked := by
  intro s x kk
  refine ⟨_, rfl, ?bits, rfl, ?frame⟩
  case bits =>
    intro k
    rw [rndWith, State.getV_drawn, State.getV_setV_same, BitVec.getLsbD_and, params_rng]
  case frame => exact ((frame_setV s x _).mono fun _ => .inl).trans ((frame_drawn _).mono fun _ => .inr)

/-- Settles O34: the sum is that of 16-bit registers, and I alone is written. -/
theorem indexAddWraps : Obligations.IndexAddWraps := by
  intro s x
  have sum : (s.i + wordOfV s x).toNat = (s.i.toNat + (s.getV x).toNat) % 65536 := by
    rw [BitVec.toNat_add, toNat_wordOfV]
    rfl
  exact ⟨_, rfl, sum, frame_setI s _⟩

end Sys2Proof.Machine
end

section
/-! SUPPORT and RESULTS. Memory and the transfers through I (spec/20_memory.md R52-R54, R62, R64; spec/44_index_memory.md
R154-R156). -/

namespace Sys2Proof.Machine

/-- Settles O40: the test of the span comes before the read. -/
theorem memReadChecksSpan : Obligations.MemReadChecksSpan := by
  intro s a n
  constructor
  · intro fits
    refine ⟨s.mem.readBytes a n, by rw [memRead_eq, if_pos fits], Memory.readBytes_length s.mem a n, ?_⟩
    intro k inSpan
    exact List.getElem?_eq_some_iff.2 ⟨by simpa using inSpan, Memory.readBytes_getElem s.mem a n k _⟩
  · intro exceeds
    rw [memRead_eq, if_neg (Nat.not_le_of_lt exceeds)]

/-- Settles O41: the test of the span comes before the first write, and in range each byte is written once. -/
theorem memWriteStoresSpan : Obligations.MemWriteStoresSpan := by
  intro s a bytes wf
  constructor
  · intro fits
    refine ⟨_, by rw [memWrite_eq, if_pos fits], Memory.writeBytes_wf wf fits, ?_, frame_writeBytes s a bytes⟩
    intro k inSpan
    rw [List.getElem?_eq_getElem inSpan]
    exact congrArg some (Memory.read_writeBytes_inside wf fits inSpan)
  · intro exceeds
    rw [memWrite_eq, if_neg (Nat.not_le_of_lt exceeds)]

/-- The digits of a byte: at most 2 hundreds, and two more decimal digits (R154). -/
theorem bcdDigits_spec (b : Byte) :
    ∃ h d o : Byte, bcdDigits b = [h, d, o] ∧ h.toNat ≤ 2 ∧ d.toNat ≤ 9 ∧ o.toNat ≤ 9 ∧
      b.toNat = 100 * h.toNat + 10 * d.toNat + o.toNat := by
  have small : b.toNat < 256 := b.isLt
  refine ⟨_, _, _, rfl, ?_⟩
  simp only [BitVec.toNat_ofNat]
  omega

/-- Settles O35: the three bytes written are the digits, in ascending order. -/
theorem bcdStoresDigits : Obligations.BcdStoresDigits := by
  intro s x wf fits
  obtain ⟨h, d, o, digits, hundreds, tens, ones, sum⟩ := bcdDigits_spec (s.getV x)
  have stored := exec_ldBVx_of_fits x fits
  rw [digits] at stored
  have digit {k : Nat} (inSpan : k < 3) :
      (s.mem.writeBytes s.i.toNat [h, d, o]).read (s.i.toNat + k) = [h, d, o][k] :=
    Memory.read_writeBytes_inside wf fits inSpan
  exact ⟨_, h, d, o, stored, digit (k := 0) (by decide), digit (k := 1) (by decide), digit (k := 2) (by decide),
    hundreds, tens, ones, sum, frame_writeBytes s s.i.toNat [h, d, o]⟩

/-- The memory that FX55 leaves has V[r] at I + r for every r up to X (R155). -/
theorem read_storeRegisters {s : State} {x r : Nibble} (wf : s.mem.wf = true) (fits : s.i.toNat + (x.toNat + 1) ≤ 4096)
    (upTo : r.toNat ≤ x.toNat) :
    (s.mem.writeBytes s.i.toNat (registersTo s x)).read (s.i.toNat + r.toNat) = s.getV r := by
  have inSpan : r.toNat < (registersTo s x).length := by
    rw [registersTo_length]
    exact Nat.lt_succ_of_le upTo
  have fits' : s.i.toNat + (registersTo s x).length ≤ params.memSize := by rwa [registersTo_length]
  rw [Memory.read_writeBytes_inside wf fits' inSpan, registersTo_getElem]

/-- Settles O36: the bytes written are V0, ..., VX, in ascending order. -/
theorem blockStore : Obligations.BlockStore := by
  intro s x wf fits
  exact ⟨_, exec_ldMemVx_of_fits fits, fun _ => read_storeRegisters wf fits, frame_storeRegisters s x⟩

/-- After FX65 each register up to X holds the byte at its place from I on (R156). -/
theorem getV_loadRegisters (s : State) (a : Nat) {x r : Nibble} (upTo : r.toNat ≤ x.toNat) :
    (s.putV 0 (s.mem.readBytes a (x.toNat + 1))).getV r = s.mem.read (a + r.toNat) := by
  have loaded : (s.mem.readBytes a (x.toNat + 1))[r.toNat]? = some (s.mem.read (a + r.toNat)) :=
    List.getElem?_eq_some_iff.2 ⟨by simpa [Nat.lt_succ_iff] using upTo, Memory.readBytes_getElem s.mem a _ _ _⟩
  rw [State.getV_putV, if_pos (Nat.zero_le _), Nat.sub_zero, loaded, Option.getD_some]

/-- Settles O37: the bytes of the span go to V0, ..., VX. -/
theorem blockLoad : Obligations.BlockLoad := by
  intro s x fits
  exact ⟨_, exec_ldVxMem_of_fits fits, fun _ => getV_loadRegisters s s.i.toNat, frame_loadRegisters s s.i.toNat x⟩

/-- Settles O38: the load reads the bytes that the store wrote. -/
theorem blockStoreThenLoad : Obligations.BlockStoreThenLoad := by
  intro s x wf fits
  refine ⟨_, exec_ldMemVx_of_fits fits, ?_⟩
  intro u sameMem sameI
  have fits' : u.i.toNat + (x.toNat + 1) ≤ 4096 := sameI ▸ fits
  refine ⟨_, exec_ldVxMem_of_fits fits', fun r upTo => ?_⟩
  rw [getV_loadRegisters u u.i.toNat upTo, sameMem, sameI]
  exact read_storeRegisters wf fits upTo

/-- Settles O39: in each form the test of the span fails before anything is written, and a raise changes only run. -/
theorem spanFaultsHalt : Obligations.SpanFaultsHalt := by
  intro s x y n
  refine ⟨?drw, ?bcd, ?store, ?load⟩
  case drw =>
    intro exceeds
    exact ⟨_, exec_drw_of_exceeds x y exceeds, frame_setRun s _, rfl⟩
  case bcd =>
    intro exceeds
    exact ⟨_, exec_ldBVx_of_exceeds x exceeds, frame_setRun s _, rfl⟩
  case store =>
    intro exceeds
    exact ⟨_, exec_ldMemVx_of_exceeds exceeds, frame_setRun s _, rfl⟩
  case load =>
    intro exceeds
    exact ⟨_, exec_ldVxMem_of_exceeds exceeds, frame_setRun s _, rfl⟩

/-- Settles O42: the fetch reads the two bytes that the store wrote. -/
theorem storeSeenByFetch : Obligations.StoreSeenByFetch := by
  intro s x r q wf fits next upTo
  refine ⟨_, exec_ldMemVx_of_fits fits, ?_⟩
  have first := read_storeRegisters (r := r) wf fits (by omega)
  have second := read_storeRegisters wf fits upTo
  rw [next, ← Nat.add_assoc] at second
  rw [fetch16_of_fits (by omega), State.setMem_mem, first, second, ← toNat_wordOfBytes, BitVec.ofNat_toNat,
    BitVec.setWidth_eq]

end Sys2Proof.Machine
end

section
/-! SUPPORT and RESULTS. The timers, the key state and the wait of FX0A (spec/45_timer_keyboard.md R160-R163;
spec/60_exceptions.md R209, R221-R226, R231). -/

namespace Sys2Proof

theorem decode_packXKK_ldDtVx (x : Nibble) : decode (packXKK 0xF x 0x15) = .ok (.ldDtVx x) :=
  decode_encode (i := .ldDtVx x) rfl

theorem decode_packXKK_ldStVx (x : Nibble) : decode (packXKK 0xF x 0x18) = .ok (.ldStVx x) :=
  decode_encode (i := .ldStVx x) rfl

end Sys2Proof

namespace Sys2Proof.Machine

/-! ## The outside moves -/

/-- A timer at 0 stays there (R221). -/
theorem timerDecay_zero (k : Nat) : timerDecay 0 k = 0 :=
  BitVec.eq_of_toNat_eq ((timerDecay_toNat 0 k).trans (Nat.zero_sub k))

theorem timerDecay_le (b : Byte) (k : Nat) : (timerDecay b k).toNat ≤ b.toNat := by
  rw [timerDecay_toNat]
  exact Nat.sub_le _ _

/-- Settles O13: the moves write the devices alone, a decrement never adds, and ks takes the update if there is one. -/
theorem outsideMovesTouchOnlyDevices : Obligations.OutsideMovesTouchOnlyDevices := by
  intro inp s
  refine ⟨frame_envMove inp s, timerDecay_le _ _, timerDecay_le _ _, ?noUpdate, ?update⟩
  case noUpdate =>
    intro none
    rw [envMove_ks, none, Option.getD_none]
  case update =>
    intro k update
    rw [envMove_ks, update, Option.getD_some]

/-! ## The wait of FX0A -/

theorem stepWith_of_waiting {inp : EnvInput} {s : State} {x : Nibble} (waiting : s.run = .waitingKey x) :
    stepWith inp s = .next (keyArrival x (waitKey s.ks inp) (envMove inp s)) := by
  rw [stepWith, waiting]

/-- The code of the key that arrived is zero-extended into V[X] (R161). -/
theorem toNat_getV_keyArrival (x k : Nibble) (s : State) : ((keyArrival x (some k) s).getV x).toNat = k.toNat := by
  rw [keyArrival, State.getV_setRun, State.getV_setV_same]
  exact BitVec.toNat_setWidth_of_le (by decide)

/-- Settles O11: no key leaves the core as it is, and a key that arrives has a code from 1 to 15. -/
theorem waitingStep : Obligations.WaitingStep := by
  intro s x waiting
  refine ⟨_, stepWith_of_waiting waiting, ?_⟩
  cases arrived : waitKey s.ks (Config.env s.draws) with
  | none => exact .inl ⟨waiting, frame_envMove _ s⟩
  | some k =>
    have small : k.toNat < 16 := k.isLt
    have nonzero : k.toNat ≠ 0 := fun zero => waitKey_ne_zero arrived (BitVec.eq_of_toNat_eq zero)
    have code := toNat_getV_keyArrival x k (envMove (Config.env s.draws) s)
    have written := (frame_setV (envMove (Config.env s.draws) s) x (k.setWidth 8)).mono
      (d := fun p => p = .reg x ∨ p = .run ∨ p.outside) fun _ => .inl
    have moved := (frame_envMove (Config.env s.draws) s).mono
      (d := fun p => p = .reg x ∨ p = .run ∨ p.outside) fun _ outside => .inr (.inr outside)
    have frame := (moved.trans written).trans ((frame_setRun _ .running).mono fun _ isRun => .inr (.inl isRun))
    exact .inr ⟨rfl, by omega, by omega, frame⟩

/-- Settles O12: a press answers the wait, and with no press and no held key there is no answer. -/
theorem waitNeverMissesAPress : Obligations.WaitNeverMissesAPress := by
  intro inp s x k waiting
  constructor
  · intro press nonzero
    have arrived : waitKey s.ks inp = some k := by
      rw [waitKey, press]
      exact if_neg nonzero
    have answer := stepWith_of_waiting (inp := inp) waiting
    rw [arrived] at answer
    have key : (envMove inp s).ks = k := by rw [envMove_ks, press, Option.getD_some]
    exact ⟨_, answer, rfl, toNat_getV_keyArrival x k _, key⟩
  · intro noKey
    have arrived : waitKey s.ks inp = none := by
      obtain released | ⟨noUpdate, notHeld⟩ := noKey
      · simp [waitKey, released]
      · simp [waitKey, noUpdate, notHeld]
    refine ⟨_, stepWith_of_waiting waiting, ?_⟩
    rw [arrived]
    exact waiting

/-! ## The timer instructions -/

/-- Settles O43: each form is one write of its timer, and a timer at 0 is not decremented. -/
theorem timerWrites : Obligations.TimerWrites := by
  constructor
  · intro x
    have delayDigits : 0xF015 + x.toNat * 256 = 0xF000 + 0x100 * x.toNat + 0x15 := by omega
    have soundDigits : 0xF018 + x.toNat * 256 = 0xF000 + 0x100 * x.toNat + 0x18 := by omega
    have delayWord : BitVec.ofNat 16 (0xF015 + x.toNat * 256) = packXKK 0xF x 0x15 := ofNat_eq_packXKK delayDigits
    have soundWord : BitVec.ofNat 16 (0xF018 + x.toNat * 256) = packXKK 0xF x 0x18 := ofNat_eq_packXKK soundDigits
    rw [delayWord, soundWord]
    exact ⟨decode_packXKK_ldDtVx x, decode_packXKK_ldStVx x⟩
  · intro s x
    have staysZero (zero : s.getV x = 0) (k : Nat) : timerDecay (s.getV x) k = 0 := zero ▸ timerDecay_zero k
    exact ⟨⟨_, rfl, rfl, frame_setDt s _, fun zero inp => staysZero zero inp.delayTicks⟩,
      ⟨_, rfl, rfl, frame_setSt s _, fun zero inp => staysZero zero inp.soundTicks⟩⟩

/-- Settles O44: the delay timer's value goes to V[X]. -/
theorem delayTimerRead : Obligations.DelayTimerRead := by
  intro s x
  exact ⟨_, rfl, State.getV_setV_same s x s.dt, frame_setV s x s.dt⟩

/-- Settles O45: the read gives what the decrements left of the value written. -/
theorem delayReadAfterWrite : Obligations.DelayReadAfterWrite := by
  intro s x y inp
  refine ⟨_, _, rfl, rfl, ?_⟩
  rw [State.getV_setV_same]
  exact timerDecay_toNat (s.getV x) inp.delayTicks

/-- Settles O48: the first step of FX0A writes run alone. -/
theorem keyWaitPauses : Obligations.KeyWaitPauses := by
  intro s x
  exact ⟨_, rfl, rfl, frame_setRun s _⟩

/-! ## Timers run out (R221, R231) -/

/-- A counter that loses what is offered, and is offered something again and again, comes to 0 and stays there. -/
theorem exists_zero_of_fair {value ticks : Nat → Nat} (loses : ∀ n, value (n + 1) = value n - ticks n)
    (fair : ∀ n, ∃ m, n ≤ m ∧ 0 < ticks m) : ∃ n, ∀ m, n ≤ m → value m = 0 := by
  have antitone : Antitone value := antitone_nat_of_succ_le fun n => (loses n).trans_le (Nat.sub_le _ _)
  suffices reaches : ∀ v n, value n ≤ v → ∃ m, value m = 0 by
    obtain ⟨n, zero⟩ := reaches (value 0) 0 le_rfl
    exact ⟨n, fun m later => Nat.le_zero.1 (zero ▸ antitone later)⟩
  intro v
  induction v with
  | zero => exact fun n atMost => ⟨n, Nat.le_zero.1 atMost⟩
  | succ v ih =>
    intro n atMost
    obtain ⟨m, later, offered⟩ := fair n
    have below : value m ≤ value n := antitone later
    have lost := loses m
    exact ih (m + 1) (by omega)

/-- Settles O47: each timer is such a counter, and from the later of the two times on both are 0. -/
theorem timersRunOut : Obligations.TimersRunOut := by
  intro env s fair
  obtain ⟨n, delayOut⟩ := exists_zero_of_fair (value := fun n => (afterMoves env n s).dt.toNat)
    (fun n => timerDecay_toNat (afterMoves env n s).dt (env n).delayTicks) fun n => (fair n).1
  obtain ⟨n', soundOut⟩ := exists_zero_of_fair (value := fun n => (afterMoves env n s).st.toNat)
    (fun n => timerDecay_toNat (afterMoves env n s).st (env n).soundTicks) fun n => (fair n).2
  refine ⟨max n n', fun m later => ?_⟩
  obtain ⟨later, later'⟩ := max_le_iff.1 later
  exact ⟨BitVec.eq_of_toNat_eq (delayOut m later), BitVec.eq_of_toNat_eq (soundOut m later')⟩

end Sys2Proof.Machine
end

section
/-! SUPPORT and RESULTS. Reset and boot (spec/10_state.md R38; spec/70_reset_and_hazards.md R240, R241). -/

namespace Sys2Proof.Machine

/-- An unwritten address below 80 reads as its byte of the font (R29). -/
theorem unlistedByte_font {a : Nat} (inFont : a < 80) : some (unlistedByte a) = fontBytes[a]? := by
  have inList : a < fontBytes.length := inFont
  have font : unlistedByte a = (fontBytes[a]?).getD 0 := if_pos ⟨Nat.zero_le a, inFont⟩
  rw [font, List.getElem?_eq_getElem inList, Option.getD_some]

/-- An unwritten address from 80 on reads as 0x00 (R38). -/
theorem unlistedByte_fill {a : Nat} (pastFont : 80 ≤ a) : unlistedByte a = 0 := by
  have notBelow : ¬ a < params.fontBase + params.fontSize := Nat.not_lt_of_le pastFont
  exact if_neg fun inFont => notBelow inFont.2

/-- Settles O53: the fill byte is 0 in every register, slot and pixel, and no byte of memory is written yet. -/
theorem resetValues : Obligations.ResetValues := by
  refine ⟨rfl, ?registers, rfl, rfl, ?slots, ?pixels, rfl, rfl, rfl, rfl, ?font, ?fill⟩
  case registers =>
    intro r
    exact Vector.getElem_replicate _
  case slots =>
    intro k inStack
    exact (Vector.getElem?_eq_getElem inStack).trans (congrArg some (Vector.getElem_replicate _))
  case pixels =>
    intro px py
    exact Framebuffer.pixel_clear px py
  case font => exact fun _ => unlistedByte_font
  case fill => exact fun _ pastFont _ => unlistedByte_fill pastFont

theorem boot_of_fits {rom : List Byte} (fits : rom.length ≤ 0xE00) :
    boot rom = some (State.reset.setMem (State.reset.mem.writeBytes 0x200 rom)) :=
  if_pos fits

/-- Settles O54: the load is one block write of the image at 0x200, whose span ends at 0x1000 at the latest. -/
theorem romLoad : Obligations.RomLoad := by
  intro rom
  constructor
  · intro fits
    have inMemory : 0x200 + rom.length ≤ 4096 := by omega
    refine ⟨_, boot_of_fits fits, resetMeetsInvariant.writeBytes inMemory, ?_, frame_writeBytes State.reset 0x200 rom⟩
    intro k inRom
    rw [List.getElem?_eq_getElem inRom]
    exact congrArg some (Memory.read_writeBytes_inside resetMeetsInvariant.mem inMemory inRom)
  · intro exceeds
    exact if_neg (Nat.not_le_of_lt exceeds)

end Sys2Proof.Machine
end
